-- ==== Sys2Proof/Word.lean ====
section
/-! DEFINITION. The fixed-width words of the machine (00_scope.md R5: WORD = 32, REG_W = 5). Bit numbering is
LSB-0 throughout (R7): bit 0 is the least significant bit, as in Lean's BitVec. -/

namespace Sys2Proof

/-- An instruction word, `raw` of 10_state.md R27: 32 bits. -/
abbrev Word := BitVec 32

/-- A byte of RAM, 20_memory.md R62. -/
abbrev Byte := BitVec 8

/-- A 5-bit index (register, condition bit, shift amount or mask bound): 00_scope.md R5, REG_W = 5. -/
abbrev RegIndex := BitVec 5

end Sys2Proof
end

