-- ==== Sys2Proof/Config.lean ====
section
/-! DEFINITION. The constants of 00_scope.md R5 and the parameters of R6 at the values the spec gives them.
No value of this machine is left free by the spec, so this file declares no opaque constant. -/

namespace Sys2Proof.Config

/-- AW, the width of a virtual and of a physical address (R6): OPEN in the spec, 32 or 64, default 64 (decision D13).
Every operation of the memory system below is written for any width; the machine is built at this one (log entry 2). -/
abbrev addressWidth : Nat := 64

/-- PAGE_SHIFT of R5. -/
def pageShift : Nat := 12

/-- PAGE_SIZE of R5. -/
def pageSize : Nat := 4096

/-- PAGE_MASK of R5: the mask of the page offset. -/
def pageMask : Nat := 0xFFF

/-- TLB_SIZE of R5: entries of each TLB, direct-mapped. -/
abbrev tlbSize : Nat := 64

/-- N_SEED of R5: identity mappings seeded by `init`, pages 0 to 15. -/
def seedCount : Nat := 16

/-- READ, bit 0 of the permission flags (10_state.md R28, decision D17). -/
def permRead : BitVec 3 := 0b001#3

/-- WRITE, bit 1 of the permission flags. -/
def permWrite : BitVec 3 := 0b010#3

/-- EXEC, bit 2 of the permission flags. -/
def permExec : BitVec 3 := 0b100#3

/-- What a byte of RAM that nothing has written since `init` reads as: zero (R35, R700: "zero-filled"). It is
also the one value the memory list never stores. -/
def unlistedByte : Byte := 0

/-- The sentinel of `instructionName` (40_decoder_ops.md R161): "the seven lower-case letters unknown". -/
def unknownName : String := "unknown"

/-- RAM_SIZE of the machine right after reset. The spec makes the size an argument of `init` and gives no value
(R6, R35). DESIGN CHOICE (log entry 1): the size its own worked examples start from, init(0x20000). -/
def resetRamSize : BitVec addressWidth := 0x20000#64

end Sys2Proof.Config
end

