-- ==== Sys2Proof/Syntax.lean ====
section
/-! DEFINITION. The terms of the machine: the decoder's records (10_state.md R25 to R27), one constructor per
instruction of the default decode tables (files 41 to 45), and the requests and results of the operation ports
(10_state.md R40 to R45). -/

namespace Sys2Proof

/-- `InstructionFormat` of 10_state.md R25: exactly these 14 values, in the order of declaration. -/
inductive InstructionFormat where
  | i | b | sc | d | ds | x | xl | xfx | xfl | a | m | md | mds | unknown
deriving DecidableEq, Repr

/-- `DecodeTableEntry` of R26, `(mask, match, format, mnemonic)`. -/
structure DecodeTableEntry where
  mask : Word
  matchBits : Word
  format : InstructionFormat
  mnemonic : String
deriving DecidableEq, Repr

/-- `Tables` of R26: five ordered lists, held here for any kind of row so that the scan is written once. -/
structure TablesOf (α : Type) where
  primary : List α
  xl : List α
  x : List α
  xfx : List α
  a : List α
deriving DecidableEq, Repr

/-- The decoder's parameter `Tables` (00_scope.md R6): the decoder below is defined for every value of it. -/
abbrev Tables := TablesOf DecodeTableEntry

/-- `DecodedInstruction` of R27, every field with its width and its default. `simm` and `addr` are two's
complement. -/
structure DecodedInstruction where
  raw : Word
  format : InstructionFormat := .unknown
  primaryOpcode : BitVec 6
  extendedOpcode : BitVec 10 := 0
  rt : RegIndex := 0
  ra : RegIndex := 0
  rb : RegIndex := 0
  bt : RegIndex := 0
  ba : RegIndex := 0
  bb : RegIndex := 0
  frt : RegIndex := 0
  fra : RegIndex := 0
  frb : RegIndex := 0
  frc : RegIndex := 0
  imm : BitVec 16 := 0
  simm : BitVec 16 := 0
  addr : BitVec 32 := 0
  spr : BitVec 10 := 0
  sh : RegIndex := 0
  mb : RegIndex := 0
  me : RegIndex := 0
  rc : Bool := false
  oe : Bool := false
  lk : Bool := false
  aa : Bool := false
deriving DecidableEq, Repr

/-- The instructions: one constructor per row of spec/opcode_table.json (one entry of `DefaultTables` each). The
operands of a constructor are ALL the bits of the word that the entry's mask leaves free, each field at its exact
width, because `raw` is part of the result (R140): the fields of the pictures R102 to R111 where a picture names
them, and for the formats without a picture of their low bits (SC, MD, MDS) those bits as they stand: `low` is
`raw[25:0]` of SC and `raw[1:0]` of MD, `mid` is `raw[10:5]` of MD and MDS. -/
inductive Instr where
  /-- R200 `tdi`, format D: trap doubleword immediate (64-bit). -/
  | tdi (rt ra : RegIndex) (imm : BitVec 16)
  /-- R201 `twi`, format D: trap word immediate. -/
  | twi (rt ra : RegIndex) (imm : BitVec 16)
  /-- R202 `mulli`, format D: multiply low immediate. -/
  | mulli (rt ra : RegIndex) (imm : BitVec 16)
  /-- R203 `subfic`, format D: subtract from immediate carrying. -/
  | subfic (rt ra : RegIndex) (imm : BitVec 16)
  /-- R204 `cmpli`, format D: compare logical immediate. -/
  | cmpli (rt ra : RegIndex) (imm : BitVec 16)
  /-- R205 `cmpi`, format D: compare immediate. -/
  | cmpi (rt ra : RegIndex) (imm : BitVec 16)
  /-- R206 `addic`, format D: add immediate carrying. -/
  | addic (rt ra : RegIndex) (imm : BitVec 16)
  /-- R207 `addic.`, format D: add immediate carrying and record. -/
  | addicDot (rt ra : RegIndex) (imm : BitVec 16)
  /-- R208 `addi`, format D: add immediate. -/
  | addi (rt ra : RegIndex) (imm : BitVec 16)
  /-- R209 `addis`, format D: add immediate shifted. -/
  | addis (rt ra : RegIndex) (imm : BitVec 16)
  /-- R210 `bc`, format B: branch conditional. -/
  | bc (bt ba : RegIndex) (bd : BitVec 14) (aa lk : Bool)
  /-- R211 `sc`, format SC: system call. -/
  | sc (low : BitVec 26)
  /-- R212 `b`, format I: branch. -/
  | b (li : BitVec 24) (aa lk : Bool)
  /-- R213 `rlwimi`, format M: rotate left word immediate then mask insert. -/
  | rlwimi (rt ra sh mb me : RegIndex) (rc : Bool)
  /-- R214 `rlwinm`, format M: rotate left word immediate then AND with mask. -/
  | rlwinm (rt ra sh mb me : RegIndex) (rc : Bool)
  /-- R215 `rlwnm`, format M: rotate left word then AND with mask. -/
  | rlwnm (rt ra sh mb me : RegIndex) (rc : Bool)
  /-- R216 `ori`, format D: OR immediate. -/
  | ori (rt ra : RegIndex) (imm : BitVec 16)
  /-- R217 `oris`, format D: OR immediate shifted. -/
  | oris (rt ra : RegIndex) (imm : BitVec 16)
  /-- R218 `xori`, format D: XOR immediate. -/
  | xori (rt ra : RegIndex) (imm : BitVec 16)
  /-- R219 `xoris`, format D: XOR immediate shifted. -/
  | xoris (rt ra : RegIndex) (imm : BitVec 16)
  /-- R220 `andi.`, format D: AND immediate and record. -/
  | andiDot (rt ra : RegIndex) (imm : BitVec 16)
  /-- R221 `andis.`, format D: AND immediate shifted and record. -/
  | andisDot (rt ra : RegIndex) (imm : BitVec 16)
  /-- R222 `rldicl`, format MD: rotate left doubleword immediate then clear left (64-bit placeholder). -/
  | rldicl (rt ra rb : RegIndex) (mid : BitVec 6) (low : BitVec 2)
  /-- R223 `rldicr`, format MD: rotate left doubleword immediate then clear right (64-bit placeholder). -/
  | rldicr (rt ra rb : RegIndex) (mid : BitVec 6) (low : BitVec 2)
  /-- R224 `rldic`, format MD: rotate left doubleword immediate then clear (64-bit placeholder). -/
  | rldic (rt ra rb : RegIndex) (mid : BitVec 6) (low : BitVec 2)
  /-- R225 `rldimi`, format MD: rotate left doubleword immediate then mask insert (64-bit placeholder). -/
  | rldimi (rt ra rb : RegIndex) (mid : BitVec 6) (low : BitVec 2)
  /-- R226 `rldcl`, format MDS: rotate left doubleword then clear left (64-bit placeholder). -/
  | rldcl (rt ra rb : RegIndex) (mid : BitVec 6) (rc : Bool)
  /-- R227 `rldcr`, format MDS: rotate left doubleword then clear right (64-bit placeholder). -/
  | rldcr (rt ra rb : RegIndex) (mid : BitVec 6) (rc : Bool)
  /-- R228 `lwz`, format D: load word and zero. -/
  | lwz (rt ra : RegIndex) (imm : BitVec 16)
  /-- R229 `lwzu`, format D: load word and zero with update. -/
  | lwzu (rt ra : RegIndex) (imm : BitVec 16)
  /-- R230 `lbz`, format D: load byte and zero. -/
  | lbz (rt ra : RegIndex) (imm : BitVec 16)
  /-- R231 `lbzu`, format D: load byte and zero with update. -/
  | lbzu (rt ra : RegIndex) (imm : BitVec 16)
  /-- R232 `stw`, format D: store word. -/
  | stw (rt ra : RegIndex) (imm : BitVec 16)
  /-- R233 `stwu`, format D: store word with update. -/
  | stwu (rt ra : RegIndex) (imm : BitVec 16)
  /-- R234 `stb`, format D: store byte. -/
  | stb (rt ra : RegIndex) (imm : BitVec 16)
  /-- R235 `stbu`, format D: store byte with update. -/
  | stbu (rt ra : RegIndex) (imm : BitVec 16)
  /-- R236 `lhz`, format D: load halfword and zero. -/
  | lhz (rt ra : RegIndex) (imm : BitVec 16)
  /-- R237 `lhzu`, format D: load halfword and zero with update. -/
  | lhzu (rt ra : RegIndex) (imm : BitVec 16)
  /-- R238 `lha`, format D: load halfword algebraic. -/
  | lha (rt ra : RegIndex) (imm : BitVec 16)
  /-- R239 `lhau`, format D: load halfword algebraic with update. -/
  | lhau (rt ra : RegIndex) (imm : BitVec 16)
  /-- R240 `sth`, format D: store halfword. -/
  | sth (rt ra : RegIndex) (imm : BitVec 16)
  /-- R241 `sthu`, format D: store halfword with update. -/
  | sthu (rt ra : RegIndex) (imm : BitVec 16)
  /-- R242 `lmw`, format D: load multiple word. -/
  | lmw (rt ra : RegIndex) (imm : BitVec 16)
  /-- R243 `stmw`, format D: store multiple word. -/
  | stmw (rt ra : RegIndex) (imm : BitVec 16)
  /-- R244 `lfs`, format D: load floating-point single. -/
  | lfs (rt ra : RegIndex) (imm : BitVec 16)
  /-- R245 `lfsu`, format D: load floating-point single with update. -/
  | lfsu (rt ra : RegIndex) (imm : BitVec 16)
  /-- R246 `lfd`, format D: load floating-point double. -/
  | lfd (rt ra : RegIndex) (imm : BitVec 16)
  /-- R247 `lfdu`, format D: load floating-point double with update. -/
  | lfdu (rt ra : RegIndex) (imm : BitVec 16)
  /-- R248 `stfs`, format D: store floating-point single. -/
  | stfs (rt ra : RegIndex) (imm : BitVec 16)
  /-- R249 `stfsu`, format D: store floating-point single with update. -/
  | stfsu (rt ra : RegIndex) (imm : BitVec 16)
  /-- R250 `stfd`, format D: store floating-point double. -/
  | stfd (rt ra : RegIndex) (imm : BitVec 16)
  /-- R251 `stfdu`, format D: store floating-point double with update. -/
  | stfdu (rt ra : RegIndex) (imm : BitVec 16)
  /-- R252 `ld`, format DS: load doubleword (64-bit). -/
  | ld (rt ra : RegIndex) (ds : BitVec 14)
  /-- R253 `ldu`, format DS: load doubleword with update (64-bit). -/
  | ldu (rt ra : RegIndex) (ds : BitVec 14)
  /-- R254 `lwa`, format DS: load word algebraic (64-bit). -/
  | lwa (rt ra : RegIndex) (ds : BitVec 14)
  /-- R255 `std`, format DS: store doubleword (64-bit). -/
  | std (rt ra : RegIndex) (ds : BitVec 14)
  /-- R256 `stdu`, format DS: store doubleword with update (64-bit). -/
  | stdu (rt ra : RegIndex) (ds : BitVec 14)
  /-- R260 `mcrf`, format XL: move condition register field. -/
  | mcrf (bt ba bb : RegIndex) (lk : Bool)
  /-- R261 `bclr`, format XL: branch conditional to link register. -/
  | bclr (bt ba bb : RegIndex) (lk : Bool)
  /-- R262 `crnor`, format XL: condition register NOR. -/
  | crnor (bt ba bb : RegIndex) (lk : Bool)
  /-- R263 `rfi`, format XL: return from interrupt. -/
  | rfi (bt ba bb : RegIndex) (lk : Bool)
  /-- R264 `crandc`, format XL: condition register AND with complement. -/
  | crandc (bt ba bb : RegIndex) (lk : Bool)
  /-- R265 `isync`, format XL: instruction synchronize. -/
  | isync (bt ba bb : RegIndex) (lk : Bool)
  /-- R266 `crxor`, format XL: condition register XOR. -/
  | crxor (bt ba bb : RegIndex) (lk : Bool)
  /-- R267 `crnand`, format XL: condition register NAND. -/
  | crnand (bt ba bb : RegIndex) (lk : Bool)
  /-- R268 `crand`, format XL: condition register AND. -/
  | crand (bt ba bb : RegIndex) (lk : Bool)
  /-- R269 `creqv`, format XL: condition register equivalent. -/
  | creqv (bt ba bb : RegIndex) (lk : Bool)
  /-- R270 `crorc`, format XL: condition register OR with complement. -/
  | crorc (bt ba bb : RegIndex) (lk : Bool)
  /-- R271 `cror`, format XL: condition register OR. -/
  | cror (bt ba bb : RegIndex) (lk : Bool)
  /-- R272 `bcctr`, format XL: branch conditional to count register. -/
  | bcctr (bt ba bb : RegIndex) (lk : Bool)
  /-- R280 `cmp`, format X: compare. -/
  | cmp (rt ra rb : RegIndex) (rc : Bool)
  /-- R281 `tw`, format X: trap word. -/
  | tw (rt ra rb : RegIndex) (rc : Bool)
  /-- R282 `subfc`, format X: subtract from carrying. -/
  | subfc (rt ra rb : RegIndex) (oe rc : Bool)
  /-- R283 `addc`, format X: add carrying. -/
  | addc (rt ra rb : RegIndex) (oe rc : Bool)
  /-- R284 `mulhwu`, format X: multiply high word unsigned. -/
  | mulhwu (rt ra rb : RegIndex) (rc : Bool)
  /-- R285 `lwarx`, format X: load word and reserve indexed. -/
  | lwarx (rt ra rb : RegIndex) (rc : Bool)
  /-- R286 `lwzx`, format X: load word and zero indexed. -/
  | lwzx (rt ra rb : RegIndex) (rc : Bool)
  /-- R287 `slw`, format X: shift left word. -/
  | slw (rt ra rb : RegIndex) (rc : Bool)
  /-- R288 `cntlzw`, format X: count leading zeros word. -/
  | cntlzw (rt ra rb : RegIndex) (rc : Bool)
  /-- R289 `and`, format X: AND. -/
  | and (rt ra rb : RegIndex) (rc : Bool)
  /-- R290 `cmpl`, format X: compare logical. -/
  | cmpl (rt ra rb : RegIndex) (rc : Bool)
  /-- R291 `subf`, format X: subtract from. -/
  | subf (rt ra rb : RegIndex) (oe rc : Bool)
  /-- R292 `dcbst`, format X: data cache block store. -/
  | dcbst (rt ra rb : RegIndex) (rc : Bool)
  /-- R293 `lwzux`, format X: load word and zero with update indexed. -/
  | lwzux (rt ra rb : RegIndex) (rc : Bool)
  /-- R294 `andc`, format X: AND with complement. -/
  | andc (rt ra rb : RegIndex) (rc : Bool)
  /-- R295 `mulhw`, format X: multiply high word. -/
  | mulhw (rt ra rb : RegIndex) (rc : Bool)
  /-- R296 `mfmsr`, format X: move from machine state register. -/
  | mfmsr (rt ra rb : RegIndex) (rc : Bool)
  /-- R297 `dcbf`, format X: data cache block flush. -/
  | dcbf (rt ra rb : RegIndex) (rc : Bool)
  /-- R298 `lbzx`, format X: load byte and zero indexed. -/
  | lbzx (rt ra rb : RegIndex) (rc : Bool)
  /-- R299 `neg`, format X: negate. -/
  | neg (rt ra rb : RegIndex) (oe rc : Bool)
  /-- R300 `lbzux`, format X: load byte and zero with update indexed. -/
  | lbzux (rt ra rb : RegIndex) (rc : Bool)
  /-- R301 `nor`, format X: NOR. -/
  | nor (rt ra rb : RegIndex) (rc : Bool)
  /-- R302 `subfe`, format X: subtract from extended. -/
  | subfe (rt ra rb : RegIndex) (oe rc : Bool)
  /-- R303 `adde`, format X: add extended. -/
  | adde (rt ra rb : RegIndex) (oe rc : Bool)
  /-- R304 `mtmsr`, format X: move to machine state register. -/
  | mtmsr (rt ra rb : RegIndex) (rc : Bool)
  /-- R305 `stwcx.`, format X: store word conditional indexed. -/
  | stwcxDot (rt ra rb : RegIndex) (rc : Bool)
  /-- R306 `stwx`, format X: store word indexed. -/
  | stwx (rt ra rb : RegIndex) (rc : Bool)
  /-- R307 `stwux`, format X: store word with update indexed. -/
  | stwux (rt ra rb : RegIndex) (rc : Bool)
  /-- R308 `subfze`, format X: subtract from zero extended. -/
  | subfze (rt ra rb : RegIndex) (oe rc : Bool)
  /-- R309 `addze`, format X: add to zero extended. -/
  | addze (rt ra rb : RegIndex) (oe rc : Bool)
  /-- R310 `mtsr`, format X: move to segment register. -/
  | mtsr (rt ra rb : RegIndex) (rc : Bool)
  /-- R311 `stbx`, format X: store byte indexed. -/
  | stbx (rt ra rb : RegIndex) (rc : Bool)
  /-- R312 `subfme`, format X: subtract from minus one extended. -/
  | subfme (rt ra rb : RegIndex) (oe rc : Bool)
  /-- R313 `addme`, format X: add to minus one extended. -/
  | addme (rt ra rb : RegIndex) (oe rc : Bool)
  /-- R314 `mullw`, format X: multiply low word. -/
  | mullw (rt ra rb : RegIndex) (oe rc : Bool)
  /-- R315 `mtsrin`, format X: move to segment register indirect. -/
  | mtsrin (rt ra rb : RegIndex) (rc : Bool)
  /-- R316 `dcbtst`, format X: data cache block touch for store. -/
  | dcbtst (rt ra rb : RegIndex) (rc : Bool)
  /-- R317 `stbux`, format X: store byte with update indexed. -/
  | stbux (rt ra rb : RegIndex) (rc : Bool)
  /-- R318 `add`, format X: add. -/
  | add (rt ra rb : RegIndex) (oe rc : Bool)
  /-- R319 `dcbt`, format X: data cache block touch. -/
  | dcbt (rt ra rb : RegIndex) (rc : Bool)
  /-- R320 `lhzx`, format X: load halfword and zero indexed. -/
  | lhzx (rt ra rb : RegIndex) (rc : Bool)
  /-- R321 `eqv`, format X: equivalent. -/
  | eqv (rt ra rb : RegIndex) (rc : Bool)
  /-- R322 `tlbie`, format X: TLB invalidate entry. -/
  | tlbie (rt ra rb : RegIndex) (rc : Bool)
  /-- R323 `eciwx`, format X: external control in word indexed. -/
  | eciwx (rt ra rb : RegIndex) (rc : Bool)
  /-- R340 `lhzux`, format X: load halfword and zero with update indexed. -/
  | lhzux (rt ra rb : RegIndex) (rc : Bool)
  /-- R341 `xor`, format X: XOR. -/
  | xor (rt ra rb : RegIndex) (rc : Bool)
  /-- R342 `lhax`, format X: load halfword algebraic indexed. -/
  | lhax (rt ra rb : RegIndex) (rc : Bool)
  /-- R343 `lhaux`, format X: load halfword algebraic with update indexed. -/
  | lhaux (rt ra rb : RegIndex) (rc : Bool)
  /-- R344 `sthx`, format X: store halfword indexed. -/
  | sthx (rt ra rb : RegIndex) (rc : Bool)
  /-- R345 `orc`, format X: OR with complement. -/
  | orc (rt ra rb : RegIndex) (rc : Bool)
  /-- R346 `ecowx`, format X: external control out word indexed. -/
  | ecowx (rt ra rb : RegIndex) (rc : Bool)
  /-- R347 `sthux`, format X: store halfword with update indexed. -/
  | sthux (rt ra rb : RegIndex) (rc : Bool)
  /-- R348 `or`, format X: OR. -/
  | or (rt ra rb : RegIndex) (rc : Bool)
  /-- R349 `divwu`, format X: divide word unsigned. -/
  | divwu (rt ra rb : RegIndex) (oe rc : Bool)
  /-- R350 `dcbi`, format X: data cache block invalidate. -/
  | dcbi (rt ra rb : RegIndex) (rc : Bool)
  /-- R351 `nand`, format X: NAND. -/
  | nand (rt ra rb : RegIndex) (rc : Bool)
  /-- R352 `divw`, format X: divide word. -/
  | divw (rt ra rb : RegIndex) (oe rc : Bool)
  /-- R353 `mcrxr`, format X: move to condition register from XER. -/
  | mcrxr (rt ra rb : RegIndex) (rc : Bool)
  /-- R354 `lswx`, format X: load string word indexed. -/
  | lswx (rt ra rb : RegIndex) (rc : Bool)
  /-- R355 `lwbrx`, format X: load word byte-reverse indexed. -/
  | lwbrx (rt ra rb : RegIndex) (rc : Bool)
  /-- R356 `lfsx`, format X: load floating-point single indexed. -/
  | lfsx (rt ra rb : RegIndex) (rc : Bool)
  /-- R357 `srw`, format X: shift right word. -/
  | srw (rt ra rb : RegIndex) (rc : Bool)
  /-- R358 `tlbsync`, format X: TLB synchronize. -/
  | tlbsync (rt ra rb : RegIndex) (rc : Bool)
  /-- R359 `lfsux`, format X: load floating-point single with update indexed. -/
  | lfsux (rt ra rb : RegIndex) (rc : Bool)
  /-- R360 `mfsr`, format X: move from segment register. -/
  | mfsr (rt ra rb : RegIndex) (rc : Bool)
  /-- R361 `lswi`, format X: load string word immediate. -/
  | lswi (rt ra rb : RegIndex) (rc : Bool)
  /-- R362 `sync`, format X: synchronize. -/
  | sync (rt ra rb : RegIndex) (rc : Bool)
  /-- R363 `lfdx`, format X: load floating-point double indexed. -/
  | lfdx (rt ra rb : RegIndex) (rc : Bool)
  /-- R364 `lfdux`, format X: load floating-point double with update indexed. -/
  | lfdux (rt ra rb : RegIndex) (rc : Bool)
  /-- R365 `mfsrin`, format X: move from segment register indirect. -/
  | mfsrin (rt ra rb : RegIndex) (rc : Bool)
  /-- R366 `stswx`, format X: store string word indexed. -/
  | stswx (rt ra rb : RegIndex) (rc : Bool)
  /-- R367 `stwbrx`, format X: store word byte-reverse indexed. -/
  | stwbrx (rt ra rb : RegIndex) (rc : Bool)
  /-- R368 `stfsx`, format X: store floating-point single indexed. -/
  | stfsx (rt ra rb : RegIndex) (rc : Bool)
  /-- R369 `stfsux`, format X: store floating-point single with update indexed. -/
  | stfsux (rt ra rb : RegIndex) (rc : Bool)
  /-- R370 `stswi`, format X: store string word immediate. -/
  | stswi (rt ra rb : RegIndex) (rc : Bool)
  /-- R371 `stfdx`, format X: store floating-point double indexed. -/
  | stfdx (rt ra rb : RegIndex) (rc : Bool)
  /-- R372 `stfdux`, format X: store floating-point double with update indexed. -/
  | stfdux (rt ra rb : RegIndex) (rc : Bool)
  /-- R373 `lhbrx`, format X: load halfword byte-reverse indexed. -/
  | lhbrx (rt ra rb : RegIndex) (rc : Bool)
  /-- R374 `sraw`, format X: shift right algebraic word. -/
  | sraw (rt ra rb : RegIndex) (rc : Bool)
  /-- R375 `srawi`, format X: shift right algebraic word immediate. -/
  | srawi (rt ra rb : RegIndex) (rc : Bool)
  /-- R376 `eieio`, format X: enforce in-order execution of I/O. -/
  | eieio (rt ra rb : RegIndex) (rc : Bool)
  /-- R377 `sthbrx`, format X: store halfword byte-reverse indexed. -/
  | sthbrx (rt ra rb : RegIndex) (rc : Bool)
  /-- R378 `extsh`, format X: extend sign halfword. -/
  | extsh (rt ra rb : RegIndex) (rc : Bool)
  /-- R379 `extsb`, format X: extend sign byte. -/
  | extsb (rt ra rb : RegIndex) (rc : Bool)
  /-- R380 `icbi`, format X: instruction cache block invalidate. -/
  | icbi (rt ra rb : RegIndex) (rc : Bool)
  /-- R381 `stfiwx`, format X: store floating-point as integer word indexed. -/
  | stfiwx (rt ra rb : RegIndex) (rc : Bool)
  /-- R382 `dcbz`, format X: data cache block set to zero. -/
  | dcbz (rt ra rb : RegIndex) (rc : Bool)
  /-- R400 `mfcr`, format XFX: move from condition register. -/
  | mfcr (rt : RegIndex) (spr : BitVec 10) (rc : Bool)
  /-- R401 `mtcrf`, format XFX: move to condition register fields. -/
  | mtcrf (rt : RegIndex) (spr : BitVec 10) (rc : Bool)
  /-- R402 `mfspr`, format XFX: move from special-purpose register. -/
  | mfspr (rt : RegIndex) (spr : BitVec 10) (rc : Bool)
  /-- R403 `mftb`, format XFX: move from time base. -/
  | mftb (rt : RegIndex) (spr : BitVec 10) (rc : Bool)
  /-- R404 `mtspr`, format XFX: move to special-purpose register. -/
  | mtspr (rt : RegIndex) (spr : BitVec 10) (rc : Bool)
  /-- R410 `fdivs`, format A: floating divide single. -/
  | fdivs (frt fra frb frc : RegIndex) (rc : Bool)
  /-- R411 `fsubs`, format A: floating subtract single. -/
  | fsubs (frt fra frb frc : RegIndex) (rc : Bool)
  /-- R412 `fadds`, format A: floating add single. -/
  | fadds (frt fra frb frc : RegIndex) (rc : Bool)
  /-- R413 `fsqrts`, format A: floating square root single. -/
  | fsqrts (frt fra frb frc : RegIndex) (rc : Bool)
  /-- R414 `fres`, format A: floating reciprocal estimate single. -/
  | fres (frt fra frb frc : RegIndex) (rc : Bool)
  /-- R415 `fmuls`, format A: floating multiply single. -/
  | fmuls (frt fra frb frc : RegIndex) (rc : Bool)
  /-- R416 `fmsubs`, format A: floating multiply-subtract single. -/
  | fmsubs (frt fra frb frc : RegIndex) (rc : Bool)
  /-- R417 `fmadds`, format A: floating multiply-add single. -/
  | fmadds (frt fra frb frc : RegIndex) (rc : Bool)
  /-- R418 `fnmsubs`, format A: floating negative multiply-subtract single. -/
  | fnmsubs (frt fra frb frc : RegIndex) (rc : Bool)
  /-- R419 `fnmadds`, format A: floating negative multiply-add single. -/
  | fnmadds (frt fra frb frc : RegIndex) (rc : Bool)
  /-- R420 `fdiv`, format A: floating divide. -/
  | fdiv (frt fra frb frc : RegIndex) (rc : Bool)
  /-- R421 `fsub`, format A: floating subtract. -/
  | fsub (frt fra frb frc : RegIndex) (rc : Bool)
  /-- R422 `fadd`, format A: floating add. -/
  | fadd (frt fra frb frc : RegIndex) (rc : Bool)
  /-- R423 `fsqrt`, format A: floating square root. -/
  | fsqrt (frt fra frb frc : RegIndex) (rc : Bool)
  /-- R424 `fsel`, format A: floating select. -/
  | fsel (frt fra frb frc : RegIndex) (rc : Bool)
  /-- R425 `fmul`, format A: floating multiply. -/
  | fmul (frt fra frb frc : RegIndex) (rc : Bool)
  /-- R426 `frsqrte`, format A: floating reciprocal square root estimate. -/
  | frsqrte (frt fra frb frc : RegIndex) (rc : Bool)
  /-- R427 `fmsub`, format A: floating multiply-subtract. -/
  | fmsub (frt fra frb frc : RegIndex) (rc : Bool)
  /-- R428 `fmadd`, format A: floating multiply-add. -/
  | fmadd (frt fra frb frc : RegIndex) (rc : Bool)
  /-- R429 `fnmsub`, format A: floating negative multiply-subtract. -/
  | fnmsub (frt fra frb frc : RegIndex) (rc : Bool)
  /-- R430 `fnmadd`, format A: floating negative multiply-add. -/
  | fnmadd (frt fra frb frc : RegIndex) (rc : Bool)
deriving DecidableEq, Repr

/-- The operations of the memory port (R42), the two reads of the counter port (R43), and the one outcome of the
source's `init` that the spec leaves to the model (R607), at an address width `aw`. Each argument has exactly the
width of its port (decision D27). -/
inductive MemOp (aw : Nat) where
  /-- `init(sizeBytes)`, 70_reset_and_hazards.md R700: a natural number below 2^aw. -/
  | init (sizeBytes : BitVec aw)
  /-- `init(sizeBytes)` for which the host reports the allocation failure of 60_exceptions.md R607. -/
  | initAllocationFailure (sizeBytes : BitVec aw)
  /-- `destroy()`, R701. -/
  | destroy
  /-- `translate(vaddr, isInstructionFetch)`, 46_tlb_ops.md R502. -/
  | translate (vaddr : BitVec aw) (isInstructionFetch : Bool)
  /-- `flush()`, R506. -/
  | flush
  /-- `read8(vaddr)`, 47_mem_access_ops.md R531. -/
  | read8 (vaddr : BitVec aw)
  /-- `read16(vaddr)`, R532. -/
  | read16 (vaddr : BitVec aw)
  /-- `read32(vaddr)`, R533. -/
  | read32 (vaddr : BitVec aw)
  /-- `read64(vaddr)`, R534. -/
  | read64 (vaddr : BitVec aw)
  /-- `write8(vaddr, value)`, R535. -/
  | write8 (vaddr : BitVec aw) (value : BitVec 8)
  /-- `write16(vaddr, value)`, R536. -/
  | write16 (vaddr : BitVec aw) (value : BitVec 16)
  /-- `write32(vaddr, value)`, R537. -/
  | write32 (vaddr : BitVec aw) (value : BitVec 32)
  /-- `write64(vaddr, value)`, R538. -/
  | write64 (vaddr : BitVec aw) (value : BitVec 64)
  /-- A read of `tlbHits` on the counter port, R43. -/
  | readTlbHits
  /-- A read of `tlbMisses` on the counter port, R43. -/
  | readTlbMisses
deriving DecidableEq, Repr

/-- What a memory operation returns (the result column of R42). -/
inductive MemResult (aw : Nat) where
  /-- The operation has no result (`init`, `destroy`, `flush`, `write*`). -/
  | done
  /-- The physical address `translate` returns. -/
  | paddr (p : BitVec aw)
  | value8 (v : BitVec 8)
  | value16 (v : BitVec 16)
  | value32 (v : BitVec 32)
  | value64 (v : BitVec 64)
  /-- The value of a counter (R29, log entry 3). -/
  | count (n : Nat)
  /-- The source's `AllocationFailure` (R607). -/
  | allocationFailure
deriving DecidableEq, Repr

/-- A request of the host on one of the ports (R40 to R43), or two memory operations the host lets overlap in
time (R45). -/
inductive Request where
  /-- Port `decode`, R40. -/
  | decode (raw : Word)
  /-- Port `instructionName`, R41. -/
  | instructionName (d : DecodedInstruction)
  /-- The memory and counter ports, R42 and R43. -/
  | mem (op : MemOp Config.addressWidth)
  /-- Two operations overlapping in time on the one memory system (93_implementation_defined.md U2). -/
  | overlapping (first second : MemOp Config.addressWidth)
deriving DecidableEq, Repr

/-- A response of a port. -/
inductive Response where
  | decoded (d : DecodedInstruction)
  | name (mnemonic : String)
  | mem (r : MemResult Config.addressWidth)
deriving DecidableEq, Repr

end Sys2Proof
end

