-- ==== Sys2Proof/WellFormed.lean ====
section
/-! DEFINITION. The checks of the terms that can be ill formed: a table entry, the tables, and a hand-built record
(10_state.md R26, R27). An instruction needs no check: each constructor of `Instr` holds exactly the bits its
entry leaves free, at their widths, so every term of `Instr` is the instruction of a word. The same holds of a
request: the ports are typed (decision D27). -/

namespace Sys2Proof

/-- R26: "An entry is well formed iff `match & ~mask = 0`", and an entry's format is never UNKNOWN. -/
def DecodeTableEntry.wf (e : DecodeTableEntry) : Bool :=
  (e.matchBits &&& ~~~e.mask == 0#32) && e.format != .unknown

/-- Every entry of the five tables is well formed, and none is named as the sentinel of `instructionName` (the
proviso of 40_decoder_ops.md R162). -/
def TablesOf.wf (T : Tables) : Bool :=
  (T.primary ++ T.xl ++ T.x ++ T.xfx ++ T.a).all fun e => e.wf && e.mnemonic != Config.unknownName

/-- The invariant of R27 on a record: `primaryOpcode` is `raw[31:26]`, and every field its format does not fill,
except the six common ones, holds its default; for format UNKNOWN the six common ones do too. -/
def DecodedInstruction.wf (d : DecodedInstruction) : Bool :=
  d.primaryOpcode == d.raw.extractLsb' 26 6 &&
  (d.format ∈ [.x, .xl, .xfx, .a] || d.extendedOpcode == 0#10) &&
  (d.format ∈ [.b, .xl] || d.bt == 0#5 && d.ba == 0#5 && d.bb == 0#5) &&
  (d.format == .a || d.frt == 0#5 && d.fra == 0#5 && d.frb == 0#5 && d.frc == 0#5) &&
  (d.format ∈ [.i, .b] || d.addr == 0#32 && !d.aa) &&
  (d.format == .xfx || d.spr == 0#10) &&
  (d.format == .m || d.sh == 0#5 && d.mb == 0#5 && d.me == 0#5) &&
  (d.format == .x || !d.oe) &&
  (d.format ∈ [.i, .b, .xl] || !d.lk) &&
  (d.format != .unknown ||
    d.rt == 0#5 && d.ra == 0#5 && d.rb == 0#5 && d.imm == 0#16 && d.simm == 0#16 && !d.rc)

end Sys2Proof
end

