-- ==== Sys2Proof/Decode.lean ====
section
/-! DEFINITION. The decoder: the fields of a word (30_encoding.md R101 to R115), the table scan and the whole of
`decode` and `instructionName` for any tables (40_decoder_ops.md R140 to R164), `DefaultTables` (files 41 to 45),
the instruction a word stands for under them, and the encoder written from the layouts R102 to R111. -/

namespace Sys2Proof

/-! ## The fields of a word (R101) -/

/-- `raw[31:26]`, R141. -/
def fieldPrimaryOpcode (raw : Word) : BitVec 6 := raw.extractLsb' 26 6
/-- `raw[10:1]`, R149. -/
def fieldExtendedOpcode (raw : Word) : BitVec 10 := raw.extractLsb' 1 10
/-- `raw[25:21]`: `rt`, `bt` and `frt`. -/
def field25to21 (raw : Word) : RegIndex := raw.extractLsb' 21 5
/-- `raw[20:16]`: `ra`, `ba` and `fra`. -/
def field20to16 (raw : Word) : RegIndex := raw.extractLsb' 16 5
/-- `raw[15:11]`: `rb`, `bb`, `frb` and `sh`. -/
def field15to11 (raw : Word) : RegIndex := raw.extractLsb' 11 5
/-- `raw[10:6]`: `frc` and `mb`. -/
def field10to6 (raw : Word) : RegIndex := raw.extractLsb' 6 5
/-- `raw[5:1]`: `me`. -/
def field5to1 (raw : Word) : RegIndex := raw.extractLsb' 1 5
/-- `raw[15:0]`: `imm`, and `simm` read as two's complement (R115). -/
def fieldImm (raw : Word) : BitVec 16 := raw.extractLsb' 0 16
/-- `raw[0]`: `rc` and `lk`. -/
def fieldBit0 (raw : Word) : Bool := raw.getLsbD 0
/-- `raw[1]`: `aa`. -/
def fieldBit1 (raw : Word) : Bool := raw.getLsbD 1
/-- `raw[10]`: `oe`, R155. -/
def fieldBit10 (raw : Word) : Bool := raw.getLsbD 10
/-- The DS displacement `signed(raw[15:0] & 0xFFFC)`, R154. -/
def fieldDsSimm (raw : Word) : BitVec 16 := fieldImm raw &&& 0xFFFC#16
/-- `addr` of an I-form word, `sext_32(raw[25:2] || 0b00)`, R150. -/
def fieldAddrI (raw : Word) : BitVec 32 := (raw.extractLsb' 2 24 ++ 0b00#2).signExtend 32
/-- `addr` of a B-form word, `sext_32(raw[15:2] || 0b00)`, R151. -/
def fieldAddrB (raw : Word) : BitVec 32 := (raw.extractLsb' 2 14 ++ 0b00#2).signExtend 32
/-- `spr = (raw[15:11] << 5) | raw[20:16]`, 10 bits, R112. -/
def fieldSpr (raw : Word) : BitVec 10 :=
  ((field15to11 raw).setWidth 10 <<< 5) ||| (field20to16 raw).setWidth 10

/-! ## Opcode dispatch (R142 to R146) -/

/-- `(raw & mask) == match`, R120. -/
def DecodeTableEntry.selects (e : DecodeTableEntry) (raw : Word) : Bool :=
  raw &&& e.mask == e.matchBits

/-- `Scan` of R142 over rows that carry an entry: the first row, in declaration order, whose entry selects the word. -/
def scanRows {α : Type} (entryOf : α → DecodeTableEntry) (table : List α) (raw : Word) : Option α :=
  table.find? fun r => (entryOf r).selects raw

/-- R144: the secondary table family of the word's primary opcode; at most one is scanned. -/
def secondaryRow {α : Type} (entryOf : α → DecodeTableEntry) (T : TablesOf α) (raw : Word) : Option α :=
  if fieldPrimaryOpcode raw = 19 then scanRows entryOf T.xl raw
  else if fieldPrimaryOpcode raw = 31 then
    match scanRows entryOf T.x raw with
    | some r => some r
    | none => scanRows entryOf T.xfx raw
  else if fieldPrimaryOpcode raw = 59 ∨ fieldPrimaryOpcode raw = 63 then scanRows entryOf T.a raw
  else none

/-- `Lookup` of R145 and R146: a secondary match stands, else the primary result (or none) stands. -/
def lookupRow {α : Type} (entryOf : α → DecodeTableEntry) (T : TablesOf α) (raw : Word) : Option α :=
  match secondaryRow entryOf T raw with
  | some r => some r
  | none => scanRows entryOf T.primary raw

/-- `Scan(table, raw)`, R142. -/
def scan (table : List DecodeTableEntry) (raw : Word) : Option DecodeTableEntry := scanRows id table raw

/-- `Lookup(raw)`, R146: the deciding entry of a word. -/
def lookup (T : Tables) (raw : Word) : Option DecodeTableEntry := lookupRow id T raw

/-! ## The bit-field extractor (R148 to R160) -/

/-- The record of a word no consulted entry selects (R114, R160): `raw` and `primaryOpcode`, all else default. -/
def recordUnknown (raw : Word) : DecodedInstruction := { raw := raw, primaryOpcode := fieldPrimaryOpcode raw }

/-- R148: the six common fields, whatever the matched format is. -/
def withCommonFields (raw : Word) (d : DecodedInstruction) : DecodedInstruction :=
  { d with
    rt := field25to21 raw
    ra := field20to16 raw
    rb := field15to11 raw
    rc := fieldBit0 raw
    imm := fieldImm raw
    simm := fieldImm raw }

/-- R149: the extended opcode, for the formats X, XL, XFX and A. -/
def withExtendedOpcode (raw : Word) (d : DecodedInstruction) : DecodedInstruction :=
  match d.format with
  | .x | .xl | .xfx | .a => { d with extendedOpcode := fieldExtendedOpcode raw }
  | .i | .b | .sc | .d | .ds | .xfl | .m | .md | .mds | .unknown => d

/-- R150 to R160: the one arm of the word's format. -/
def withFormatFields (raw : Word) (d : DecodedInstruction) : DecodedInstruction :=
  match d.format with
  | .i => { d with addr := fieldAddrI raw, lk := fieldBit0 raw, aa := fieldBit1 raw }
  | .b =>
    { d with
      addr := fieldAddrB raw
      lk := fieldBit0 raw
      aa := fieldBit1 raw
      bt := field25to21 raw
      ba := field20to16 raw
      bb := field15to11 raw }
  | .ds => { d with simm := fieldDsSimm raw }
  | .x => { d with oe := fieldBit10 raw }
  | .xl =>
    { d with bt := field25to21 raw, ba := field20to16 raw, bb := field15to11 raw, lk := fieldBit0 raw }
  | .xfx => { d with spr := fieldSpr raw }
  | .a =>
    { d with frt := field25to21 raw, fra := field20to16 raw, frb := field15to11 raw, frc := field10to6 raw }
  | .m => { d with sh := field15to11 raw, mb := field10to6 raw, me := field5to1 raw }
  | .sc | .d | .xfl | .md | .mds | .unknown => d

/-- The record of a word whose deciding entry has the given format. -/
def recordOfFormat (format : InstructionFormat) (raw : Word) : DecodedInstruction :=
  withFormatFields raw (withExtendedOpcode raw
    (withCommonFields raw { recordUnknown raw with format := format }))

/-- `decode(raw)`, the whole of R164, for any tables. -/
def decode (T : Tables) (raw : Word) : DecodedInstruction :=
  match lookup T raw with
  | none => recordUnknown raw
  | some e => recordOfFormat e.format raw

/-- `instructionName(d)`, R161: the same lookup again, of which only `d.raw` is read. -/
def instructionName (T : Tables) (d : DecodedInstruction) : String :=
  match lookup T d.raw with
  | some e => e.mnemonic
  | none => Config.unknownName

/-! ## DefaultTables (files 41 to 45): each entry beside the operands of its instruction -/

/-- A row of the default tables: the entry, and the instruction a word it selects stands for. -/
structure TableRow where
  entry : DecodeTableEntry
  build : Word → Instr

/-- The operands of a D-form word (R105). -/
def buildD (c : RegIndex → RegIndex → BitVec 16 → Instr) (raw : Word) : Instr :=
  c (field25to21 raw) (field20to16 raw) (fieldImm raw)
/-- The operands of a B-form word (R103): `BD` is `raw[15:2]`. -/
def buildB (c : RegIndex → RegIndex → BitVec 14 → Bool → Bool → Instr) (raw : Word) : Instr :=
  c (field25to21 raw) (field20to16 raw) (raw.extractLsb' 2 14) (fieldBit1 raw) (fieldBit0 raw)
/-- The 26 low bits of an SC-form word (R104). -/
def buildSc (c : BitVec 26 → Instr) (raw : Word) : Instr := c (raw.extractLsb' 0 26)
/-- The operands of an I-form word (R102): `LI` is `raw[25:2]`. -/
def buildI (c : BitVec 24 → Bool → Bool → Instr) (raw : Word) : Instr :=
  c (raw.extractLsb' 2 24) (fieldBit1 raw) (fieldBit0 raw)
/-- The operands of an M-form word (R111). -/
def buildM (c : RegIndex → RegIndex → RegIndex → RegIndex → RegIndex → Bool → Instr) (raw : Word) : Instr :=
  c (field25to21 raw) (field20to16 raw) (field15to11 raw) (field10to6 raw) (field5to1 raw) (fieldBit0 raw)
/-- The free bits of an MD-form word (R113, entry mask 0xFC00001C). -/
def buildMd (c : RegIndex → RegIndex → RegIndex → BitVec 6 → BitVec 2 → Instr) (raw : Word) : Instr :=
  c (field25to21 raw) (field20to16 raw) (field15to11 raw) (raw.extractLsb' 5 6) (raw.extractLsb' 0 2)
/-- The free bits of an MDS-form word (R113, entry mask 0xFC00001E). -/
def buildMds (c : RegIndex → RegIndex → RegIndex → BitVec 6 → Bool → Instr) (raw : Word) : Instr :=
  c (field25to21 raw) (field20to16 raw) (field15to11 raw) (raw.extractLsb' 5 6) (fieldBit0 raw)
/-- The operands of a DS-form word (R106): `DS` is `raw[15:2]`. -/
def buildDs (c : RegIndex → RegIndex → BitVec 14 → Instr) (raw : Word) : Instr :=
  c (field25to21 raw) (field20to16 raw) (raw.extractLsb' 2 14)
/-- The operands of an XL-form word (R108). -/
def buildXl (c : RegIndex → RegIndex → RegIndex → Bool → Instr) (raw : Word) : Instr :=
  c (field25to21 raw) (field20to16 raw) (field15to11 raw) (fieldBit0 raw)
/-- The operands of an X-form word whose entry fixes bits 10:1 (R107). -/
def buildX (c : RegIndex → RegIndex → RegIndex → Bool → Instr) (raw : Word) : Instr :=
  c (field25to21 raw) (field20to16 raw) (field15to11 raw) (fieldBit0 raw)
/-- The operands of an X-form word whose entry leaves bit 10 free (R124, decision D5). -/
def buildXo (c : RegIndex → RegIndex → RegIndex → Bool → Bool → Instr) (raw : Word) : Instr :=
  c (field25to21 raw) (field20to16 raw) (field15to11 raw) (fieldBit10 raw) (fieldBit0 raw)
/-- The operands of an XFX-form word (R109, R112). -/
def buildXfx (c : RegIndex → BitVec 10 → Bool → Instr) (raw : Word) : Instr :=
  c (field25to21 raw) (fieldSpr raw) (fieldBit0 raw)
/-- The operands of an A-form word (R110). -/
def buildA (c : RegIndex → RegIndex → RegIndex → RegIndex → Bool → Instr) (raw : Word) : Instr :=
  c (field25to21 raw) (field20to16 raw) (field15to11 raw) (field10to6 raw) (fieldBit0 raw)

/-- Entries 1 to 15 of table PRIMARY (R200 to R214), in declaration order. -/
def primaryRows1 : List TableRow := [
  ⟨⟨0xFC000000, 0x08000000, .d, "tdi"⟩, buildD .tdi⟩,
  ⟨⟨0xFC000000, 0x0C000000, .d, "twi"⟩, buildD .twi⟩,
  ⟨⟨0xFC000000, 0x1C000000, .d, "mulli"⟩, buildD .mulli⟩,
  ⟨⟨0xFC000000, 0x20000000, .d, "subfic"⟩, buildD .subfic⟩,
  ⟨⟨0xFC000000, 0x28000000, .d, "cmpli"⟩, buildD .cmpli⟩,
  ⟨⟨0xFC000000, 0x2C000000, .d, "cmpi"⟩, buildD .cmpi⟩,
  ⟨⟨0xFC000000, 0x30000000, .d, "addic"⟩, buildD .addic⟩,
  ⟨⟨0xFC000000, 0x34000000, .d, "addic."⟩, buildD .addicDot⟩,
  ⟨⟨0xFC000000, 0x38000000, .d, "addi"⟩, buildD .addi⟩,
  ⟨⟨0xFC000000, 0x3C000000, .d, "addis"⟩, buildD .addis⟩,
  ⟨⟨0xFC000000, 0x40000000, .b, "bc"⟩, buildB .bc⟩,
  ⟨⟨0xFC000000, 0x44000000, .sc, "sc"⟩, buildSc .sc⟩,
  ⟨⟨0xFC000000, 0x48000000, .i, "b"⟩, buildI .b⟩,
  ⟨⟨0xFC000000, 0x50000000, .m, "rlwimi"⟩, buildM .rlwimi⟩,
  ⟨⟨0xFC000000, 0x54000000, .m, "rlwinm"⟩, buildM .rlwinm⟩]

/-- Entries 16 to 30 of table PRIMARY (R215 to R229), in declaration order. -/
def primaryRows2 : List TableRow := [
  ⟨⟨0xFC000000, 0x5C000000, .m, "rlwnm"⟩, buildM .rlwnm⟩,
  ⟨⟨0xFC000000, 0x60000000, .d, "ori"⟩, buildD .ori⟩,
  ⟨⟨0xFC000000, 0x64000000, .d, "oris"⟩, buildD .oris⟩,
  ⟨⟨0xFC000000, 0x68000000, .d, "xori"⟩, buildD .xori⟩,
  ⟨⟨0xFC000000, 0x6C000000, .d, "xoris"⟩, buildD .xoris⟩,
  ⟨⟨0xFC000000, 0x70000000, .d, "andi."⟩, buildD .andiDot⟩,
  ⟨⟨0xFC000000, 0x74000000, .d, "andis."⟩, buildD .andisDot⟩,
  ⟨⟨0xFC00001C, 0x78000000, .md, "rldicl"⟩, buildMd .rldicl⟩,
  ⟨⟨0xFC00001C, 0x78000004, .md, "rldicr"⟩, buildMd .rldicr⟩,
  ⟨⟨0xFC00001C, 0x78000008, .md, "rldic"⟩, buildMd .rldic⟩,
  ⟨⟨0xFC00001C, 0x7800000C, .md, "rldimi"⟩, buildMd .rldimi⟩,
  ⟨⟨0xFC00001E, 0x78000010, .mds, "rldcl"⟩, buildMds .rldcl⟩,
  ⟨⟨0xFC00001E, 0x78000012, .mds, "rldcr"⟩, buildMds .rldcr⟩,
  ⟨⟨0xFC000000, 0x80000000, .d, "lwz"⟩, buildD .lwz⟩,
  ⟨⟨0xFC000000, 0x84000000, .d, "lwzu"⟩, buildD .lwzu⟩]

/-- Entries 31 to 45 of table PRIMARY (R230 to R244), in declaration order. -/
def primaryRows3 : List TableRow := [
  ⟨⟨0xFC000000, 0x88000000, .d, "lbz"⟩, buildD .lbz⟩,
  ⟨⟨0xFC000000, 0x8C000000, .d, "lbzu"⟩, buildD .lbzu⟩,
  ⟨⟨0xFC000000, 0x90000000, .d, "stw"⟩, buildD .stw⟩,
  ⟨⟨0xFC000000, 0x94000000, .d, "stwu"⟩, buildD .stwu⟩,
  ⟨⟨0xFC000000, 0x98000000, .d, "stb"⟩, buildD .stb⟩,
  ⟨⟨0xFC000000, 0x9C000000, .d, "stbu"⟩, buildD .stbu⟩,
  ⟨⟨0xFC000000, 0xA0000000, .d, "lhz"⟩, buildD .lhz⟩,
  ⟨⟨0xFC000000, 0xA4000000, .d, "lhzu"⟩, buildD .lhzu⟩,
  ⟨⟨0xFC000000, 0xA8000000, .d, "lha"⟩, buildD .lha⟩,
  ⟨⟨0xFC000000, 0xAC000000, .d, "lhau"⟩, buildD .lhau⟩,
  ⟨⟨0xFC000000, 0xB0000000, .d, "sth"⟩, buildD .sth⟩,
  ⟨⟨0xFC000000, 0xB4000000, .d, "sthu"⟩, buildD .sthu⟩,
  ⟨⟨0xFC000000, 0xB8000000, .d, "lmw"⟩, buildD .lmw⟩,
  ⟨⟨0xFC000000, 0xBC000000, .d, "stmw"⟩, buildD .stmw⟩,
  ⟨⟨0xFC000000, 0xC0000000, .d, "lfs"⟩, buildD .lfs⟩]

/-- Entries 46 to 57 of table PRIMARY (R245 to R256), in declaration order. -/
def primaryRows4 : List TableRow := [
  ⟨⟨0xFC000000, 0xC4000000, .d, "lfsu"⟩, buildD .lfsu⟩,
  ⟨⟨0xFC000000, 0xC8000000, .d, "lfd"⟩, buildD .lfd⟩,
  ⟨⟨0xFC000000, 0xCC000000, .d, "lfdu"⟩, buildD .lfdu⟩,
  ⟨⟨0xFC000000, 0xD0000000, .d, "stfs"⟩, buildD .stfs⟩,
  ⟨⟨0xFC000000, 0xD4000000, .d, "stfsu"⟩, buildD .stfsu⟩,
  ⟨⟨0xFC000000, 0xD8000000, .d, "stfd"⟩, buildD .stfd⟩,
  ⟨⟨0xFC000000, 0xDC000000, .d, "stfdu"⟩, buildD .stfdu⟩,
  ⟨⟨0xFC000003, 0xE8000000, .ds, "ld"⟩, buildDs .ld⟩,
  ⟨⟨0xFC000003, 0xE8000001, .ds, "ldu"⟩, buildDs .ldu⟩,
  ⟨⟨0xFC000003, 0xE8000002, .ds, "lwa"⟩, buildDs .lwa⟩,
  ⟨⟨0xFC000003, 0xF8000000, .ds, "std"⟩, buildDs .std⟩,
  ⟨⟨0xFC000003, 0xF8000001, .ds, "stdu"⟩, buildDs .stdu⟩]

/-- Table PRIMARY of `DefaultTables` (41_decode_primary_table.md), 57 entries in declaration order. -/
def primaryRows : List TableRow :=
  primaryRows1 ++ primaryRows2 ++ primaryRows3 ++ primaryRows4

/-- Entries 1 to 13 of table XL (R260 to R272), in declaration order. -/
def xlRows1 : List TableRow := [
  ⟨⟨0x000007FE, 0x00000000, .xl, "mcrf"⟩, buildXl .mcrf⟩,
  ⟨⟨0x000007FE, 0x00000020, .xl, "bclr"⟩, buildXl .bclr⟩,
  ⟨⟨0x000007FE, 0x00000042, .xl, "crnor"⟩, buildXl .crnor⟩,
  ⟨⟨0x000007FE, 0x00000064, .xl, "rfi"⟩, buildXl .rfi⟩,
  ⟨⟨0x000007FE, 0x00000102, .xl, "crandc"⟩, buildXl .crandc⟩,
  ⟨⟨0x000007FE, 0x0000012C, .xl, "isync"⟩, buildXl .isync⟩,
  ⟨⟨0x000007FE, 0x00000182, .xl, "crxor"⟩, buildXl .crxor⟩,
  ⟨⟨0x000007FE, 0x000001C2, .xl, "crnand"⟩, buildXl .crnand⟩,
  ⟨⟨0x000007FE, 0x00000202, .xl, "crand"⟩, buildXl .crand⟩,
  ⟨⟨0x000007FE, 0x00000242, .xl, "creqv"⟩, buildXl .creqv⟩,
  ⟨⟨0x000007FE, 0x00000342, .xl, "crorc"⟩, buildXl .crorc⟩,
  ⟨⟨0x000007FE, 0x00000382, .xl, "cror"⟩, buildXl .cror⟩,
  ⟨⟨0x000007FE, 0x00000420, .xl, "bcctr"⟩, buildXl .bcctr⟩]

/-- Table XL of `DefaultTables` (42_decode_xl_table.md), 13 entries in declaration order. -/
def xlRows : List TableRow :=
  xlRows1

/-- Entries 1 to 15 of table X (R280 to R294), in declaration order. -/
def xRows1 : List TableRow := [
  ⟨⟨0x000007FE, 0x00000000, .x, "cmp"⟩, buildX .cmp⟩,
  ⟨⟨0x000007FE, 0x00000008, .x, "tw"⟩, buildX .tw⟩,
  ⟨⟨0x000003FE, 0x00000010, .x, "subfc"⟩, buildXo .subfc⟩,
  ⟨⟨0x000003FE, 0x00000014, .x, "addc"⟩, buildXo .addc⟩,
  ⟨⟨0x000007FE, 0x00000016, .x, "mulhwu"⟩, buildX .mulhwu⟩,
  ⟨⟨0x000007FE, 0x00000028, .x, "lwarx"⟩, buildX .lwarx⟩,
  ⟨⟨0x000007FE, 0x0000002E, .x, "lwzx"⟩, buildX .lwzx⟩,
  ⟨⟨0x000007FE, 0x00000030, .x, "slw"⟩, buildX .slw⟩,
  ⟨⟨0x000007FE, 0x00000034, .x, "cntlzw"⟩, buildX .cntlzw⟩,
  ⟨⟨0x000007FE, 0x00000038, .x, "and"⟩, buildX .and⟩,
  ⟨⟨0x000007FE, 0x00000040, .x, "cmpl"⟩, buildX .cmpl⟩,
  ⟨⟨0x000003FE, 0x00000050, .x, "subf"⟩, buildXo .subf⟩,
  ⟨⟨0x000007FE, 0x0000006C, .x, "dcbst"⟩, buildX .dcbst⟩,
  ⟨⟨0x000007FE, 0x0000006E, .x, "lwzux"⟩, buildX .lwzux⟩,
  ⟨⟨0x000007FE, 0x00000078, .x, "andc"⟩, buildX .andc⟩]

/-- Entries 16 to 30 of table X (R295 to R309), in declaration order. -/
def xRows2 : List TableRow := [
  ⟨⟨0x000007FE, 0x00000096, .x, "mulhw"⟩, buildX .mulhw⟩,
  ⟨⟨0x000007FE, 0x000000A6, .x, "mfmsr"⟩, buildX .mfmsr⟩,
  ⟨⟨0x000007FE, 0x000000AC, .x, "dcbf"⟩, buildX .dcbf⟩,
  ⟨⟨0x000007FE, 0x000000AE, .x, "lbzx"⟩, buildX .lbzx⟩,
  ⟨⟨0x000003FE, 0x000000D0, .x, "neg"⟩, buildXo .neg⟩,
  ⟨⟨0x000007FE, 0x000000EE, .x, "lbzux"⟩, buildX .lbzux⟩,
  ⟨⟨0x000007FE, 0x000000F8, .x, "nor"⟩, buildX .nor⟩,
  ⟨⟨0x000003FE, 0x00000110, .x, "subfe"⟩, buildXo .subfe⟩,
  ⟨⟨0x000003FE, 0x00000114, .x, "adde"⟩, buildXo .adde⟩,
  ⟨⟨0x000007FE, 0x00000124, .x, "mtmsr"⟩, buildX .mtmsr⟩,
  ⟨⟨0x000007FE, 0x0000012C, .x, "stwcx."⟩, buildX .stwcxDot⟩,
  ⟨⟨0x000007FE, 0x0000012E, .x, "stwx"⟩, buildX .stwx⟩,
  ⟨⟨0x000007FE, 0x0000016E, .x, "stwux"⟩, buildX .stwux⟩,
  ⟨⟨0x000003FE, 0x00000190, .x, "subfze"⟩, buildXo .subfze⟩,
  ⟨⟨0x000003FE, 0x00000194, .x, "addze"⟩, buildXo .addze⟩]

/-- Entries 31 to 45 of table X (R310 to R340), in declaration order. -/
def xRows3 : List TableRow := [
  ⟨⟨0x000007FE, 0x000001A4, .x, "mtsr"⟩, buildX .mtsr⟩,
  ⟨⟨0x000007FE, 0x000001AE, .x, "stbx"⟩, buildX .stbx⟩,
  ⟨⟨0x000003FE, 0x000001D0, .x, "subfme"⟩, buildXo .subfme⟩,
  ⟨⟨0x000003FE, 0x000001D4, .x, "addme"⟩, buildXo .addme⟩,
  ⟨⟨0x000003FE, 0x000001D6, .x, "mullw"⟩, buildXo .mullw⟩,
  ⟨⟨0x000007FE, 0x000001E4, .x, "mtsrin"⟩, buildX .mtsrin⟩,
  ⟨⟨0x000007FE, 0x000001EC, .x, "dcbtst"⟩, buildX .dcbtst⟩,
  ⟨⟨0x000007FE, 0x000001EE, .x, "stbux"⟩, buildX .stbux⟩,
  ⟨⟨0x000003FE, 0x00000214, .x, "add"⟩, buildXo .add⟩,
  ⟨⟨0x000007FE, 0x0000022C, .x, "dcbt"⟩, buildX .dcbt⟩,
  ⟨⟨0x000007FE, 0x0000022E, .x, "lhzx"⟩, buildX .lhzx⟩,
  ⟨⟨0x000007FE, 0x00000238, .x, "eqv"⟩, buildX .eqv⟩,
  ⟨⟨0x000007FE, 0x00000264, .x, "tlbie"⟩, buildX .tlbie⟩,
  ⟨⟨0x000007FE, 0x0000026C, .x, "eciwx"⟩, buildX .eciwx⟩,
  ⟨⟨0x000007FE, 0x0000026E, .x, "lhzux"⟩, buildX .lhzux⟩]

/-- Entries 46 to 60 of table X (R341 to R355), in declaration order. -/
def xRows4 : List TableRow := [
  ⟨⟨0x000007FE, 0x00000278, .x, "xor"⟩, buildX .xor⟩,
  ⟨⟨0x000007FE, 0x000002AE, .x, "lhax"⟩, buildX .lhax⟩,
  ⟨⟨0x000007FE, 0x000002EE, .x, "lhaux"⟩, buildX .lhaux⟩,
  ⟨⟨0x000007FE, 0x0000032E, .x, "sthx"⟩, buildX .sthx⟩,
  ⟨⟨0x000007FE, 0x00000338, .x, "orc"⟩, buildX .orc⟩,
  ⟨⟨0x000007FE, 0x0000036C, .x, "ecowx"⟩, buildX .ecowx⟩,
  ⟨⟨0x000007FE, 0x0000036E, .x, "sthux"⟩, buildX .sthux⟩,
  ⟨⟨0x000007FE, 0x00000378, .x, "or"⟩, buildX .or⟩,
  ⟨⟨0x000003FE, 0x00000396, .x, "divwu"⟩, buildXo .divwu⟩,
  ⟨⟨0x000007FE, 0x000003AC, .x, "dcbi"⟩, buildX .dcbi⟩,
  ⟨⟨0x000007FE, 0x000003B8, .x, "nand"⟩, buildX .nand⟩,
  ⟨⟨0x000003FE, 0x000003D6, .x, "divw"⟩, buildXo .divw⟩,
  ⟨⟨0x000007FE, 0x00000400, .x, "mcrxr"⟩, buildX .mcrxr⟩,
  ⟨⟨0x000007FE, 0x0000042A, .x, "lswx"⟩, buildX .lswx⟩,
  ⟨⟨0x000007FE, 0x0000042C, .x, "lwbrx"⟩, buildX .lwbrx⟩]

/-- Entries 61 to 75 of table X (R356 to R370), in declaration order. -/
def xRows5 : List TableRow := [
  ⟨⟨0x000007FE, 0x0000042E, .x, "lfsx"⟩, buildX .lfsx⟩,
  ⟨⟨0x000007FE, 0x00000430, .x, "srw"⟩, buildX .srw⟩,
  ⟨⟨0x000007FE, 0x0000046C, .x, "tlbsync"⟩, buildX .tlbsync⟩,
  ⟨⟨0x000007FE, 0x0000046E, .x, "lfsux"⟩, buildX .lfsux⟩,
  ⟨⟨0x000007FE, 0x000004A6, .x, "mfsr"⟩, buildX .mfsr⟩,
  ⟨⟨0x000007FE, 0x000004AA, .x, "lswi"⟩, buildX .lswi⟩,
  ⟨⟨0x000007FE, 0x000004AC, .x, "sync"⟩, buildX .sync⟩,
  ⟨⟨0x000007FE, 0x000004AE, .x, "lfdx"⟩, buildX .lfdx⟩,
  ⟨⟨0x000007FE, 0x000004EE, .x, "lfdux"⟩, buildX .lfdux⟩,
  ⟨⟨0x000007FE, 0x00000526, .x, "mfsrin"⟩, buildX .mfsrin⟩,
  ⟨⟨0x000007FE, 0x0000052A, .x, "stswx"⟩, buildX .stswx⟩,
  ⟨⟨0x000007FE, 0x0000052C, .x, "stwbrx"⟩, buildX .stwbrx⟩,
  ⟨⟨0x000007FE, 0x0000052E, .x, "stfsx"⟩, buildX .stfsx⟩,
  ⟨⟨0x000007FE, 0x0000056E, .x, "stfsux"⟩, buildX .stfsux⟩,
  ⟨⟨0x000007FE, 0x000005AA, .x, "stswi"⟩, buildX .stswi⟩]

/-- Entries 76 to 87 of table X (R371 to R382), in declaration order. -/
def xRows6 : List TableRow := [
  ⟨⟨0x000007FE, 0x000005AE, .x, "stfdx"⟩, buildX .stfdx⟩,
  ⟨⟨0x000007FE, 0x000005EE, .x, "stfdux"⟩, buildX .stfdux⟩,
  ⟨⟨0x000007FE, 0x0000062C, .x, "lhbrx"⟩, buildX .lhbrx⟩,
  ⟨⟨0x000007FE, 0x00000630, .x, "sraw"⟩, buildX .sraw⟩,
  ⟨⟨0x000007FE, 0x00000670, .x, "srawi"⟩, buildX .srawi⟩,
  ⟨⟨0x000007FE, 0x000006AC, .x, "eieio"⟩, buildX .eieio⟩,
  ⟨⟨0x000007FE, 0x0000072C, .x, "sthbrx"⟩, buildX .sthbrx⟩,
  ⟨⟨0x000007FE, 0x00000734, .x, "extsh"⟩, buildX .extsh⟩,
  ⟨⟨0x000007FE, 0x00000774, .x, "extsb"⟩, buildX .extsb⟩,
  ⟨⟨0x000007FE, 0x000007AC, .x, "icbi"⟩, buildX .icbi⟩,
  ⟨⟨0x000007FE, 0x000007AE, .x, "stfiwx"⟩, buildX .stfiwx⟩,
  ⟨⟨0x000007FE, 0x000007EC, .x, "dcbz"⟩, buildX .dcbz⟩]

/-- Table X of `DefaultTables` (43_decode_x_table_a.md and 44_decode_x_table_b.md), 87 entries in declaration order. -/
def xRows : List TableRow :=
  xRows1 ++ xRows2 ++ xRows3 ++ xRows4 ++ xRows5 ++ xRows6

/-- Entries 1 to 5 of table XFX (R400 to R404), in declaration order. -/
def xfxRows1 : List TableRow := [
  ⟨⟨0x000007FE, 0x00000026, .xfx, "mfcr"⟩, buildXfx .mfcr⟩,
  ⟨⟨0x000007FE, 0x00000120, .xfx, "mtcrf"⟩, buildXfx .mtcrf⟩,
  ⟨⟨0x000007FE, 0x000002A6, .xfx, "mfspr"⟩, buildXfx .mfspr⟩,
  ⟨⟨0x000007FE, 0x000002E6, .xfx, "mftb"⟩, buildXfx .mftb⟩,
  ⟨⟨0x000007FE, 0x000003A6, .xfx, "mtspr"⟩, buildXfx .mtspr⟩]

/-- Table XFX of `DefaultTables` (45_decode_xfx_a_tables.md), 5 entries in declaration order. -/
def xfxRows : List TableRow :=
  xfxRows1

/-- Entries 1 to 15 of table A (R410 to R424), in declaration order. -/
def aRows1 : List TableRow := [
  ⟨⟨0xFC00003E, 0xEC000024, .a, "fdivs"⟩, buildA .fdivs⟩,
  ⟨⟨0xFC00003E, 0xEC000028, .a, "fsubs"⟩, buildA .fsubs⟩,
  ⟨⟨0xFC00003E, 0xEC00002A, .a, "fadds"⟩, buildA .fadds⟩,
  ⟨⟨0xFC00003E, 0xEC00002C, .a, "fsqrts"⟩, buildA .fsqrts⟩,
  ⟨⟨0xFC00003E, 0xEC000030, .a, "fres"⟩, buildA .fres⟩,
  ⟨⟨0xFC00003E, 0xEC000032, .a, "fmuls"⟩, buildA .fmuls⟩,
  ⟨⟨0xFC00003E, 0xEC000038, .a, "fmsubs"⟩, buildA .fmsubs⟩,
  ⟨⟨0xFC00003E, 0xEC00003A, .a, "fmadds"⟩, buildA .fmadds⟩,
  ⟨⟨0xFC00003E, 0xEC00003C, .a, "fnmsubs"⟩, buildA .fnmsubs⟩,
  ⟨⟨0xFC00003E, 0xEC00003E, .a, "fnmadds"⟩, buildA .fnmadds⟩,
  ⟨⟨0xFC00003E, 0xFC000024, .a, "fdiv"⟩, buildA .fdiv⟩,
  ⟨⟨0xFC00003E, 0xFC000028, .a, "fsub"⟩, buildA .fsub⟩,
  ⟨⟨0xFC00003E, 0xFC00002A, .a, "fadd"⟩, buildA .fadd⟩,
  ⟨⟨0xFC00003E, 0xFC00002C, .a, "fsqrt"⟩, buildA .fsqrt⟩,
  ⟨⟨0xFC00003E, 0xFC00002E, .a, "fsel"⟩, buildA .fsel⟩]

/-- Entries 16 to 21 of table A (R425 to R430), in declaration order. -/
def aRows2 : List TableRow := [
  ⟨⟨0xFC00003E, 0xFC000032, .a, "fmul"⟩, buildA .fmul⟩,
  ⟨⟨0xFC00003E, 0xFC000034, .a, "frsqrte"⟩, buildA .frsqrte⟩,
  ⟨⟨0xFC00003E, 0xFC000038, .a, "fmsub"⟩, buildA .fmsub⟩,
  ⟨⟨0xFC00003E, 0xFC00003A, .a, "fmadd"⟩, buildA .fmadd⟩,
  ⟨⟨0xFC00003E, 0xFC00003C, .a, "fnmsub"⟩, buildA .fnmsub⟩,
  ⟨⟨0xFC00003E, 0xFC00003E, .a, "fnmadd"⟩, buildA .fnmadd⟩]

/-- Table A of `DefaultTables` (45_decode_xfx_a_tables.md), 21 entries in declaration order. -/
def aRows : List TableRow :=
  aRows1 ++ aRows2

/-- The 183 rows of `DefaultTables` (R128). -/
def defaultRows : TablesOf TableRow :=
  { primary := primaryRows, xl := xlRows, x := xRows, xfx := xfxRows, a := aRows }

/-- `DefaultTables`: the default value of `Tables` (00_scope.md R6, decision D1), which the machine is built with. -/
def defaultTables : Tables :=
  { primary := primaryRows.map (·.entry)
    xl := xlRows.map (·.entry)
    x := xRows.map (·.entry)
    xfx := xfxRows.map (·.entry)
    a := aRows.map (·.entry) }

/-! ## The instruction of a word -/

/-- The instruction a 32-bit word stands for under `DefaultTables`; `none` is the classification UNKNOWN (R129). -/
def decodeWord (raw : Word) : Option Instr :=
  (lookupRow TableRow.entry defaultRows raw).map fun r => r.build raw

/-- Why a list of bytes gives no instruction. -/
inductive DecodeError where
  /-- Fewer than four bytes: a word is exactly 32 bits (R100). -/
  | truncated
  /-- A word no consulted entry selects: format UNKNOWN (R129). -/
  | unknownWord (raw : Word)
deriving DecidableEq, Repr

/-- The word at the head of a list of bytes, most significant byte first (20_memory.md R61, R77). -/
def wordOfBytes (b0 b1 b2 b3 : Byte) : Word := b0 ++ b1 ++ b2 ++ b3

/-- The decoder on bytes: the first instruction and the bytes after it. -/
def decodeBytes : List Byte → Except DecodeError (Instr × List Byte)
  | b0 :: b1 :: b2 :: b3 :: rest =>
    match decodeWord (wordOfBytes b0 b1 b2 b3) with
    | some i => .ok (i, rest)
    | none => .error (.unknownWord (wordOfBytes b0 b1 b2 b3))
  | _ => .error .truncated

/-! ## The encoder (layouts R102 to R111) -/

/-- R105: `primaryOpcode | rt | ra | imm`. -/
def layoutD (op : BitVec 6) (rt ra : RegIndex) (imm : BitVec 16) : Word := op ++ rt ++ ra ++ imm
/-- R103: `primaryOpcode | bt | ba | BD | aa | lk`. -/
def layoutB (op : BitVec 6) (bt ba : RegIndex) (bd : BitVec 14) (aa lk : Bool) : Word :=
  op ++ bt ++ ba ++ bd ++ BitVec.ofBool aa ++ BitVec.ofBool lk
/-- R104: `primaryOpcode | (not looked at)`. -/
def layoutSc (op : BitVec 6) (low : BitVec 26) : Word := op ++ low
/-- R102: `primaryOpcode | LI | aa | lk`. -/
def layoutI (op : BitVec 6) (li : BitVec 24) (aa lk : Bool) : Word :=
  op ++ li ++ BitVec.ofBool aa ++ BitVec.ofBool lk
/-- R111: `primaryOpcode | rt | ra | sh | mb | me | rc`. -/
def layoutM (op : BitVec 6) (rt ra sh mb me : RegIndex) (rc : Bool) : Word :=
  op ++ rt ++ ra ++ sh ++ mb ++ me ++ BitVec.ofBool rc
/-- The MD entries (R123): bits 4:2 select, every other bit below the opcode is free. -/
def layoutMd (op : BitVec 6) (sel : BitVec 3) (rt ra rb : RegIndex) (mid : BitVec 6) (low : BitVec 2) : Word :=
  op ++ rt ++ ra ++ rb ++ mid ++ sel ++ low
/-- The MDS entries (R123): bits 4:1 select, every other bit below the opcode is free. -/
def layoutMds (op : BitVec 6) (sel : BitVec 4) (rt ra rb : RegIndex) (mid : BitVec 6) (rc : Bool) : Word :=
  op ++ rt ++ ra ++ rb ++ mid ++ sel ++ BitVec.ofBool rc
/-- R106: `primaryOpcode | rt | ra | DS | XO`. -/
def layoutDs (op : BitVec 6) (xo : BitVec 2) (rt ra : RegIndex) (ds : BitVec 14) : Word :=
  op ++ rt ++ ra ++ ds ++ xo
/-- R108: `primaryOpcode | bt | ba | bb | extendedOpcode | lk`. -/
def layoutXl (op : BitVec 6) (xo : BitVec 10) (bt ba bb : RegIndex) (lk : Bool) : Word :=
  op ++ bt ++ ba ++ bb ++ xo ++ BitVec.ofBool lk
/-- R107: `primaryOpcode | rt | ra | rb | extendedOpcode | rc`. -/
def layoutX (op : BitVec 6) (xo : BitVec 10) (rt ra rb : RegIndex) (rc : Bool) : Word :=
  op ++ rt ++ ra ++ rb ++ xo ++ BitVec.ofBool rc
/-- R107 with bit 10 free (R124, decision D5): `oe` over the nine low bits of the extended opcode. -/
def layoutXo (op : BitVec 6) (xo : BitVec 9) (rt ra rb : RegIndex) (oe rc : Bool) : Word :=
  op ++ rt ++ ra ++ rb ++ BitVec.ofBool oe ++ xo ++ BitVec.ofBool rc
/-- R109, R112: `primaryOpcode | rt | spr-low | spr-high | extendedOpcode | (bit 0)`. -/
def layoutXfx (op : BitVec 6) (xo : BitVec 10) (rt : RegIndex) (spr : BitVec 10) (rc : Bool) : Word :=
  op ++ rt ++ spr.extractLsb' 0 5 ++ spr.extractLsb' 5 5 ++ xo ++ BitVec.ofBool rc
/-- R110: `primaryOpcode | frt | fra | frb | frc | sub-opcode | rc`. -/
def layoutA (op : BitVec 6) (sub : BitVec 5) (frt fra frb frc : RegIndex) (rc : Bool) : Word :=
  op ++ frt ++ fra ++ frb ++ frc ++ sub ++ BitVec.ofBool rc

/-- The word of an instruction. -/
def encode (i : Instr) : Word :=
  match i with
  | .tdi rt ra imm => layoutD 2#6 rt ra imm
  | .twi rt ra imm => layoutD 3#6 rt ra imm
  | .mulli rt ra imm => layoutD 7#6 rt ra imm
  | .subfic rt ra imm => layoutD 8#6 rt ra imm
  | .cmpli rt ra imm => layoutD 10#6 rt ra imm
  | .cmpi rt ra imm => layoutD 11#6 rt ra imm
  | .addic rt ra imm => layoutD 12#6 rt ra imm
  | .addicDot rt ra imm => layoutD 13#6 rt ra imm
  | .addi rt ra imm => layoutD 14#6 rt ra imm
  | .addis rt ra imm => layoutD 15#6 rt ra imm
  | .bc bt ba bd aa lk => layoutB 16#6 bt ba bd aa lk
  | .sc low => layoutSc 17#6 low
  | .b li aa lk => layoutI 18#6 li aa lk
  | .rlwimi rt ra sh mb me rc => layoutM 20#6 rt ra sh mb me rc
  | .rlwinm rt ra sh mb me rc => layoutM 21#6 rt ra sh mb me rc
  | .rlwnm rt ra sh mb me rc => layoutM 23#6 rt ra sh mb me rc
  | .ori rt ra imm => layoutD 24#6 rt ra imm
  | .oris rt ra imm => layoutD 25#6 rt ra imm
  | .xori rt ra imm => layoutD 26#6 rt ra imm
  | .xoris rt ra imm => layoutD 27#6 rt ra imm
  | .andiDot rt ra imm => layoutD 28#6 rt ra imm
  | .andisDot rt ra imm => layoutD 29#6 rt ra imm
  | .rldicl rt ra rb mid low => layoutMd 30#6 0#3 rt ra rb mid low
  | .rldicr rt ra rb mid low => layoutMd 30#6 1#3 rt ra rb mid low
  | .rldic rt ra rb mid low => layoutMd 30#6 2#3 rt ra rb mid low
  | .rldimi rt ra rb mid low => layoutMd 30#6 3#3 rt ra rb mid low
  | .rldcl rt ra rb mid rc => layoutMds 30#6 8#4 rt ra rb mid rc
  | .rldcr rt ra rb mid rc => layoutMds 30#6 9#4 rt ra rb mid rc
  | .lwz rt ra imm => layoutD 32#6 rt ra imm
  | .lwzu rt ra imm => layoutD 33#6 rt ra imm
  | .lbz rt ra imm => layoutD 34#6 rt ra imm
  | .lbzu rt ra imm => layoutD 35#6 rt ra imm
  | .stw rt ra imm => layoutD 36#6 rt ra imm
  | .stwu rt ra imm => layoutD 37#6 rt ra imm
  | .stb rt ra imm => layoutD 38#6 rt ra imm
  | .stbu rt ra imm => layoutD 39#6 rt ra imm
  | .lhz rt ra imm => layoutD 40#6 rt ra imm
  | .lhzu rt ra imm => layoutD 41#6 rt ra imm
  | .lha rt ra imm => layoutD 42#6 rt ra imm
  | .lhau rt ra imm => layoutD 43#6 rt ra imm
  | .sth rt ra imm => layoutD 44#6 rt ra imm
  | .sthu rt ra imm => layoutD 45#6 rt ra imm
  | .lmw rt ra imm => layoutD 46#6 rt ra imm
  | .stmw rt ra imm => layoutD 47#6 rt ra imm
  | .lfs rt ra imm => layoutD 48#6 rt ra imm
  | .lfsu rt ra imm => layoutD 49#6 rt ra imm
  | .lfd rt ra imm => layoutD 50#6 rt ra imm
  | .lfdu rt ra imm => layoutD 51#6 rt ra imm
  | .stfs rt ra imm => layoutD 52#6 rt ra imm
  | .stfsu rt ra imm => layoutD 53#6 rt ra imm
  | .stfd rt ra imm => layoutD 54#6 rt ra imm
  | .stfdu rt ra imm => layoutD 55#6 rt ra imm
  | .ld rt ra ds => layoutDs 58#6 0#2 rt ra ds
  | .ldu rt ra ds => layoutDs 58#6 1#2 rt ra ds
  | .lwa rt ra ds => layoutDs 58#6 2#2 rt ra ds
  | .std rt ra ds => layoutDs 62#6 0#2 rt ra ds
  | .stdu rt ra ds => layoutDs 62#6 1#2 rt ra ds
  | .mcrf bt ba bb lk => layoutXl 19#6 0#10 bt ba bb lk
  | .bclr bt ba bb lk => layoutXl 19#6 16#10 bt ba bb lk
  | .crnor bt ba bb lk => layoutXl 19#6 33#10 bt ba bb lk
  | .rfi bt ba bb lk => layoutXl 19#6 50#10 bt ba bb lk
  | .crandc bt ba bb lk => layoutXl 19#6 129#10 bt ba bb lk
  | .isync bt ba bb lk => layoutXl 19#6 150#10 bt ba bb lk
  | .crxor bt ba bb lk => layoutXl 19#6 193#10 bt ba bb lk
  | .crnand bt ba bb lk => layoutXl 19#6 225#10 bt ba bb lk
  | .crand bt ba bb lk => layoutXl 19#6 257#10 bt ba bb lk
  | .creqv bt ba bb lk => layoutXl 19#6 289#10 bt ba bb lk
  | .crorc bt ba bb lk => layoutXl 19#6 417#10 bt ba bb lk
  | .cror bt ba bb lk => layoutXl 19#6 449#10 bt ba bb lk
  | .bcctr bt ba bb lk => layoutXl 19#6 528#10 bt ba bb lk
  | .cmp rt ra rb rc => layoutX 31#6 0#10 rt ra rb rc
  | .tw rt ra rb rc => layoutX 31#6 4#10 rt ra rb rc
  | .subfc rt ra rb oe rc => layoutXo 31#6 8#9 rt ra rb oe rc
  | .addc rt ra rb oe rc => layoutXo 31#6 10#9 rt ra rb oe rc
  | .mulhwu rt ra rb rc => layoutX 31#6 11#10 rt ra rb rc
  | .lwarx rt ra rb rc => layoutX 31#6 20#10 rt ra rb rc
  | .lwzx rt ra rb rc => layoutX 31#6 23#10 rt ra rb rc
  | .slw rt ra rb rc => layoutX 31#6 24#10 rt ra rb rc
  | .cntlzw rt ra rb rc => layoutX 31#6 26#10 rt ra rb rc
  | .and rt ra rb rc => layoutX 31#6 28#10 rt ra rb rc
  | .cmpl rt ra rb rc => layoutX 31#6 32#10 rt ra rb rc
  | .subf rt ra rb oe rc => layoutXo 31#6 40#9 rt ra rb oe rc
  | .dcbst rt ra rb rc => layoutX 31#6 54#10 rt ra rb rc
  | .lwzux rt ra rb rc => layoutX 31#6 55#10 rt ra rb rc
  | .andc rt ra rb rc => layoutX 31#6 60#10 rt ra rb rc
  | .mulhw rt ra rb rc => layoutX 31#6 75#10 rt ra rb rc
  | .mfmsr rt ra rb rc => layoutX 31#6 83#10 rt ra rb rc
  | .dcbf rt ra rb rc => layoutX 31#6 86#10 rt ra rb rc
  | .lbzx rt ra rb rc => layoutX 31#6 87#10 rt ra rb rc
  | .neg rt ra rb oe rc => layoutXo 31#6 104#9 rt ra rb oe rc
  | .lbzux rt ra rb rc => layoutX 31#6 119#10 rt ra rb rc
  | .nor rt ra rb rc => layoutX 31#6 124#10 rt ra rb rc
  | .subfe rt ra rb oe rc => layoutXo 31#6 136#9 rt ra rb oe rc
  | .adde rt ra rb oe rc => layoutXo 31#6 138#9 rt ra rb oe rc
  | .mtmsr rt ra rb rc => layoutX 31#6 146#10 rt ra rb rc
  | .stwcxDot rt ra rb rc => layoutX 31#6 150#10 rt ra rb rc
  | .stwx rt ra rb rc => layoutX 31#6 151#10 rt ra rb rc
  | .stwux rt ra rb rc => layoutX 31#6 183#10 rt ra rb rc
  | .subfze rt ra rb oe rc => layoutXo 31#6 200#9 rt ra rb oe rc
  | .addze rt ra rb oe rc => layoutXo 31#6 202#9 rt ra rb oe rc
  | .mtsr rt ra rb rc => layoutX 31#6 210#10 rt ra rb rc
  | .stbx rt ra rb rc => layoutX 31#6 215#10 rt ra rb rc
  | .subfme rt ra rb oe rc => layoutXo 31#6 232#9 rt ra rb oe rc
  | .addme rt ra rb oe rc => layoutXo 31#6 234#9 rt ra rb oe rc
  | .mullw rt ra rb oe rc => layoutXo 31#6 235#9 rt ra rb oe rc
  | .mtsrin rt ra rb rc => layoutX 31#6 242#10 rt ra rb rc
  | .dcbtst rt ra rb rc => layoutX 31#6 246#10 rt ra rb rc
  | .stbux rt ra rb rc => layoutX 31#6 247#10 rt ra rb rc
  | .add rt ra rb oe rc => layoutXo 31#6 266#9 rt ra rb oe rc
  | .dcbt rt ra rb rc => layoutX 31#6 278#10 rt ra rb rc
  | .lhzx rt ra rb rc => layoutX 31#6 279#10 rt ra rb rc
  | .eqv rt ra rb rc => layoutX 31#6 284#10 rt ra rb rc
  | .tlbie rt ra rb rc => layoutX 31#6 306#10 rt ra rb rc
  | .eciwx rt ra rb rc => layoutX 31#6 310#10 rt ra rb rc
  | .lhzux rt ra rb rc => layoutX 31#6 311#10 rt ra rb rc
  | .xor rt ra rb rc => layoutX 31#6 316#10 rt ra rb rc
  | .lhax rt ra rb rc => layoutX 31#6 343#10 rt ra rb rc
  | .lhaux rt ra rb rc => layoutX 31#6 375#10 rt ra rb rc
  | .sthx rt ra rb rc => layoutX 31#6 407#10 rt ra rb rc
  | .orc rt ra rb rc => layoutX 31#6 412#10 rt ra rb rc
  | .ecowx rt ra rb rc => layoutX 31#6 438#10 rt ra rb rc
  | .sthux rt ra rb rc => layoutX 31#6 439#10 rt ra rb rc
  | .or rt ra rb rc => layoutX 31#6 444#10 rt ra rb rc
  | .divwu rt ra rb oe rc => layoutXo 31#6 459#9 rt ra rb oe rc
  | .dcbi rt ra rb rc => layoutX 31#6 470#10 rt ra rb rc
  | .nand rt ra rb rc => layoutX 31#6 476#10 rt ra rb rc
  | .divw rt ra rb oe rc => layoutXo 31#6 491#9 rt ra rb oe rc
  | .mcrxr rt ra rb rc => layoutX 31#6 512#10 rt ra rb rc
  | .lswx rt ra rb rc => layoutX 31#6 533#10 rt ra rb rc
  | .lwbrx rt ra rb rc => layoutX 31#6 534#10 rt ra rb rc
  | .lfsx rt ra rb rc => layoutX 31#6 535#10 rt ra rb rc
  | .srw rt ra rb rc => layoutX 31#6 536#10 rt ra rb rc
  | .tlbsync rt ra rb rc => layoutX 31#6 566#10 rt ra rb rc
  | .lfsux rt ra rb rc => layoutX 31#6 567#10 rt ra rb rc
  | .mfsr rt ra rb rc => layoutX 31#6 595#10 rt ra rb rc
  | .lswi rt ra rb rc => layoutX 31#6 597#10 rt ra rb rc
  | .sync rt ra rb rc => layoutX 31#6 598#10 rt ra rb rc
  | .lfdx rt ra rb rc => layoutX 31#6 599#10 rt ra rb rc
  | .lfdux rt ra rb rc => layoutX 31#6 631#10 rt ra rb rc
  | .mfsrin rt ra rb rc => layoutX 31#6 659#10 rt ra rb rc
  | .stswx rt ra rb rc => layoutX 31#6 661#10 rt ra rb rc
  | .stwbrx rt ra rb rc => layoutX 31#6 662#10 rt ra rb rc
  | .stfsx rt ra rb rc => layoutX 31#6 663#10 rt ra rb rc
  | .stfsux rt ra rb rc => layoutX 31#6 695#10 rt ra rb rc
  | .stswi rt ra rb rc => layoutX 31#6 725#10 rt ra rb rc
  | .stfdx rt ra rb rc => layoutX 31#6 727#10 rt ra rb rc
  | .stfdux rt ra rb rc => layoutX 31#6 759#10 rt ra rb rc
  | .lhbrx rt ra rb rc => layoutX 31#6 790#10 rt ra rb rc
  | .sraw rt ra rb rc => layoutX 31#6 792#10 rt ra rb rc
  | .srawi rt ra rb rc => layoutX 31#6 824#10 rt ra rb rc
  | .eieio rt ra rb rc => layoutX 31#6 854#10 rt ra rb rc
  | .sthbrx rt ra rb rc => layoutX 31#6 918#10 rt ra rb rc
  | .extsh rt ra rb rc => layoutX 31#6 922#10 rt ra rb rc
  | .extsb rt ra rb rc => layoutX 31#6 954#10 rt ra rb rc
  | .icbi rt ra rb rc => layoutX 31#6 982#10 rt ra rb rc
  | .stfiwx rt ra rb rc => layoutX 31#6 983#10 rt ra rb rc
  | .dcbz rt ra rb rc => layoutX 31#6 1014#10 rt ra rb rc
  | .mfcr rt spr rc => layoutXfx 31#6 19#10 rt spr rc
  | .mtcrf rt spr rc => layoutXfx 31#6 144#10 rt spr rc
  | .mfspr rt spr rc => layoutXfx 31#6 339#10 rt spr rc
  | .mftb rt spr rc => layoutXfx 31#6 371#10 rt spr rc
  | .mtspr rt spr rc => layoutXfx 31#6 467#10 rt spr rc
  | .fdivs frt fra frb frc rc => layoutA 59#6 18#5 frt fra frb frc rc
  | .fsubs frt fra frb frc rc => layoutA 59#6 20#5 frt fra frb frc rc
  | .fadds frt fra frb frc rc => layoutA 59#6 21#5 frt fra frb frc rc
  | .fsqrts frt fra frb frc rc => layoutA 59#6 22#5 frt fra frb frc rc
  | .fres frt fra frb frc rc => layoutA 59#6 24#5 frt fra frb frc rc
  | .fmuls frt fra frb frc rc => layoutA 59#6 25#5 frt fra frb frc rc
  | .fmsubs frt fra frb frc rc => layoutA 59#6 28#5 frt fra frb frc rc
  | .fmadds frt fra frb frc rc => layoutA 59#6 29#5 frt fra frb frc rc
  | .fnmsubs frt fra frb frc rc => layoutA 59#6 30#5 frt fra frb frc rc
  | .fnmadds frt fra frb frc rc => layoutA 59#6 31#5 frt fra frb frc rc
  | .fdiv frt fra frb frc rc => layoutA 63#6 18#5 frt fra frb frc rc
  | .fsub frt fra frb frc rc => layoutA 63#6 20#5 frt fra frb frc rc
  | .fadd frt fra frb frc rc => layoutA 63#6 21#5 frt fra frb frc rc
  | .fsqrt frt fra frb frc rc => layoutA 63#6 22#5 frt fra frb frc rc
  | .fsel frt fra frb frc rc => layoutA 63#6 23#5 frt fra frb frc rc
  | .fmul frt fra frb frc rc => layoutA 63#6 25#5 frt fra frb frc rc
  | .frsqrte frt fra frb frc rc => layoutA 63#6 26#5 frt fra frb frc rc
  | .fmsub frt fra frb frc rc => layoutA 63#6 28#5 frt fra frb frc rc
  | .fmadd frt fra frb frc rc => layoutA 63#6 29#5 frt fra frb frc rc
  | .fnmsub frt fra frb frc rc => layoutA 63#6 30#5 frt fra frb frc rc
  | .fnmadd frt fra frb frc rc => layoutA 63#6 31#5 frt fra frb frc rc

/-- The mnemonic of an instruction, as its entry spells it (files 41 to 45). -/
def Instr.mnemonic (i : Instr) : String :=
  match i with
  | .tdi .. => "tdi"
  | .twi .. => "twi"
  | .mulli .. => "mulli"
  | .subfic .. => "subfic"
  | .cmpli .. => "cmpli"
  | .cmpi .. => "cmpi"
  | .addic .. => "addic"
  | .addicDot .. => "addic."
  | .addi .. => "addi"
  | .addis .. => "addis"
  | .bc .. => "bc"
  | .sc .. => "sc"
  | .b .. => "b"
  | .rlwimi .. => "rlwimi"
  | .rlwinm .. => "rlwinm"
  | .rlwnm .. => "rlwnm"
  | .ori .. => "ori"
  | .oris .. => "oris"
  | .xori .. => "xori"
  | .xoris .. => "xoris"
  | .andiDot .. => "andi."
  | .andisDot .. => "andis."
  | .rldicl .. => "rldicl"
  | .rldicr .. => "rldicr"
  | .rldic .. => "rldic"
  | .rldimi .. => "rldimi"
  | .rldcl .. => "rldcl"
  | .rldcr .. => "rldcr"
  | .lwz .. => "lwz"
  | .lwzu .. => "lwzu"
  | .lbz .. => "lbz"
  | .lbzu .. => "lbzu"
  | .stw .. => "stw"
  | .stwu .. => "stwu"
  | .stb .. => "stb"
  | .stbu .. => "stbu"
  | .lhz .. => "lhz"
  | .lhzu .. => "lhzu"
  | .lha .. => "lha"
  | .lhau .. => "lhau"
  | .sth .. => "sth"
  | .sthu .. => "sthu"
  | .lmw .. => "lmw"
  | .stmw .. => "stmw"
  | .lfs .. => "lfs"
  | .lfsu .. => "lfsu"
  | .lfd .. => "lfd"
  | .lfdu .. => "lfdu"
  | .stfs .. => "stfs"
  | .stfsu .. => "stfsu"
  | .stfd .. => "stfd"
  | .stfdu .. => "stfdu"
  | .ld .. => "ld"
  | .ldu .. => "ldu"
  | .lwa .. => "lwa"
  | .std .. => "std"
  | .stdu .. => "stdu"
  | .mcrf .. => "mcrf"
  | .bclr .. => "bclr"
  | .crnor .. => "crnor"
  | .rfi .. => "rfi"
  | .crandc .. => "crandc"
  | .isync .. => "isync"
  | .crxor .. => "crxor"
  | .crnand .. => "crnand"
  | .crand .. => "crand"
  | .creqv .. => "creqv"
  | .crorc .. => "crorc"
  | .cror .. => "cror"
  | .bcctr .. => "bcctr"
  | .cmp .. => "cmp"
  | .tw .. => "tw"
  | .subfc .. => "subfc"
  | .addc .. => "addc"
  | .mulhwu .. => "mulhwu"
  | .lwarx .. => "lwarx"
  | .lwzx .. => "lwzx"
  | .slw .. => "slw"
  | .cntlzw .. => "cntlzw"
  | .and .. => "and"
  | .cmpl .. => "cmpl"
  | .subf .. => "subf"
  | .dcbst .. => "dcbst"
  | .lwzux .. => "lwzux"
  | .andc .. => "andc"
  | .mulhw .. => "mulhw"
  | .mfmsr .. => "mfmsr"
  | .dcbf .. => "dcbf"
  | .lbzx .. => "lbzx"
  | .neg .. => "neg"
  | .lbzux .. => "lbzux"
  | .nor .. => "nor"
  | .subfe .. => "subfe"
  | .adde .. => "adde"
  | .mtmsr .. => "mtmsr"
  | .stwcxDot .. => "stwcx."
  | .stwx .. => "stwx"
  | .stwux .. => "stwux"
  | .subfze .. => "subfze"
  | .addze .. => "addze"
  | .mtsr .. => "mtsr"
  | .stbx .. => "stbx"
  | .subfme .. => "subfme"
  | .addme .. => "addme"
  | .mullw .. => "mullw"
  | .mtsrin .. => "mtsrin"
  | .dcbtst .. => "dcbtst"
  | .stbux .. => "stbux"
  | .add .. => "add"
  | .dcbt .. => "dcbt"
  | .lhzx .. => "lhzx"
  | .eqv .. => "eqv"
  | .tlbie .. => "tlbie"
  | .eciwx .. => "eciwx"
  | .lhzux .. => "lhzux"
  | .xor .. => "xor"
  | .lhax .. => "lhax"
  | .lhaux .. => "lhaux"
  | .sthx .. => "sthx"
  | .orc .. => "orc"
  | .ecowx .. => "ecowx"
  | .sthux .. => "sthux"
  | .or .. => "or"
  | .divwu .. => "divwu"
  | .dcbi .. => "dcbi"
  | .nand .. => "nand"
  | .divw .. => "divw"
  | .mcrxr .. => "mcrxr"
  | .lswx .. => "lswx"
  | .lwbrx .. => "lwbrx"
  | .lfsx .. => "lfsx"
  | .srw .. => "srw"
  | .tlbsync .. => "tlbsync"
  | .lfsux .. => "lfsux"
  | .mfsr .. => "mfsr"
  | .lswi .. => "lswi"
  | .sync .. => "sync"
  | .lfdx .. => "lfdx"
  | .lfdux .. => "lfdux"
  | .mfsrin .. => "mfsrin"
  | .stswx .. => "stswx"
  | .stwbrx .. => "stwbrx"
  | .stfsx .. => "stfsx"
  | .stfsux .. => "stfsux"
  | .stswi .. => "stswi"
  | .stfdx .. => "stfdx"
  | .stfdux .. => "stfdux"
  | .lhbrx .. => "lhbrx"
  | .sraw .. => "sraw"
  | .srawi .. => "srawi"
  | .eieio .. => "eieio"
  | .sthbrx .. => "sthbrx"
  | .extsh .. => "extsh"
  | .extsb .. => "extsb"
  | .icbi .. => "icbi"
  | .stfiwx .. => "stfiwx"
  | .dcbz .. => "dcbz"
  | .mfcr .. => "mfcr"
  | .mtcrf .. => "mtcrf"
  | .mfspr .. => "mfspr"
  | .mftb .. => "mftb"
  | .mtspr .. => "mtspr"
  | .fdivs .. => "fdivs"
  | .fsubs .. => "fsubs"
  | .fadds .. => "fadds"
  | .fsqrts .. => "fsqrts"
  | .fres .. => "fres"
  | .fmuls .. => "fmuls"
  | .fmsubs .. => "fmsubs"
  | .fmadds .. => "fmadds"
  | .fnmsubs .. => "fnmsubs"
  | .fnmadds .. => "fnmadds"
  | .fdiv .. => "fdiv"
  | .fsub .. => "fsub"
  | .fadd .. => "fadd"
  | .fsqrt .. => "fsqrt"
  | .fsel .. => "fsel"
  | .fmul .. => "fmul"
  | .frsqrte .. => "frsqrte"
  | .fmsub .. => "fmsub"
  | .fmadd .. => "fmadd"
  | .fnmsub .. => "fnmsub"
  | .fnmadd .. => "fnmadd"

/-- A word as the memory system stores it: four bytes, the most significant at the lowest address (R61). -/
def bytesOfWord (w : Word) : List Byte :=
  [w.extractLsb' 24 8, w.extractLsb' 16 8, w.extractLsb' 8 8, w.extractLsb' 0 8]

/-- The bytes of an instruction. -/
def encodeBytes (i : Instr) : List Byte := bytesOfWord (encode i)

/-- The instruction the decoder reads from the word `w` of `nbits` bits, laid out in bytes as the hardware stores
it; every bit above `nbits` is zero. -/
def decodeTableWord (nbits w : Nat) : Option Instr :=
  match decodeBytes (bytesOfWord (BitVec.ofNat 32 (w % 2 ^ nbits))) with
  | .ok (i, _) => some i
  | .error _ => none

end Sys2Proof
end

