-- ==== Sys2Proof/Machine/State.lean ====
section
/-! DEFINITION. The state of the machine as plain data: the memory system of 10_state.md R20 (RAM, ITLB, DTLB, the
two counters, the life), the host's requests and the responses given so far. The decoder has no state (R20, R34). -/

namespace Sys2Proof.Machine

/-- RAM, 10_state.md R30: the bytes written with a value other than `Config.unlistedByte`, as (offset, byte) pairs
with strictly rising offsets (`Memory.wf`). -/
abbrev Memory := List Host.Cell

/-- `TLBEntry` of R28, at an address width `aw`. -/
structure TlbEntry (aw : Nat) where
  vaddrTag : BitVec aw
  paddrBase : BitVec aw
  permissionFlags : BitVec 3
  valid : Bool
deriving DecidableEq, Repr

/-- The entry that was never filled: R35, decision D18. -/
def TlbEntry.invalid (aw : Nat) : TlbEntry aw :=
  { vaddrTag := 0, paddrBase := 0, permissionFlags := 0, valid := false }

/-- Seed `n` of R35: page `n` mapped to itself with the given flags. -/
def TlbEntry.seed (aw : Nat) (flags : BitVec 3) (n : Nat) : TlbEntry aw :=
  { vaddrTag := BitVec.ofNat aw (n <<< Config.pageShift)
    paddrBase := BitVec.ofNat aw (n <<< Config.pageShift)
    permissionFlags := flags
    valid := true }

/-- A TLB: "a fixed-size array of TLBEntry" of 64 entries (R28). -/
abbrev Tlb (aw : Nat) := Vector (TlbEntry aw) Config.tlbSize

/-- A TLB right after `init` (R35): 16 seeds, the other 48 entries invalid. -/
def seededTlb (aw : Nat) (flags : BitVec 3) : Tlb aw :=
  Vector.ofFn fun i => if i.val < Config.seedCount then TlbEntry.seed aw flags i.val else TlbEntry.invalid aw

/-- `life` of R31. -/
inductive Life where
  | uninit
  | live
  | destroyed
deriving DecidableEq, Repr

/-- The state of the memory system (R20), at an address width `aw`. -/
structure MemorySystem (aw : Nat) where
  /-- RAM_SIZE, fixed at `init`. -/
  ramSize : Nat
  ram : Memory
  itlb : Tlb aw
  dtlb : Tlb aw
  /-- R29; natural numbers, as R29 allows (log entry 3). -/
  tlbHits : Nat
  tlbMisses : Nat
  life : Life
deriving DecidableEq, Repr

/-- The memory system before `init` (R36): nothing in it has a value, and no operation but `init` has a meaning. -/
def MemorySystem.uninit (aw : Nat) : MemorySystem aw :=
  { ramSize := 0
    ram := []
    itlb := Vector.replicate Config.tlbSize (TlbEntry.invalid aw)
    dtlb := Vector.replicate Config.tlbSize (TlbEntry.invalid aw)
    tlbHits := 0
    tlbMisses := 0
    life := .uninit }

/-- The table of R35: the memory system immediately after `init` with this RAM size. -/
def MemorySystem.afterInit (aw : Nat) (ramSize : Nat) : MemorySystem aw :=
  { ramSize := ramSize
    ram := []
    itlb := seededTlb aw (Config.permRead ||| Config.permExec)
    dtlb := seededTlb aw (Config.permRead ||| Config.permWrite)
    tlbHits := 0
    tlbMisses := 0
    life := .live }

/-- The whole machine. -/
structure State where
  /-- The one memory system (R20). -/
  mem : MemorySystem Config.addressWidth
  /-- The host's requests still to be served, the next one first (R45, log entry 4). -/
  requests : List Request
  /-- The results returned so far, the oldest first (00_scope.md R12, log entry 4). -/
  responses : List Response
deriving DecidableEq, Repr

/-- Right after reset (R35; hardware reset is `init`, decision D28), with the RAM size of log entry 1, no request
waiting and no result given. -/
def State.reset : State :=
  { mem := MemorySystem.afterInit Config.addressWidth Config.resetRamSize.toNat
    requests := []
    responses := [] }

/-- 60_exceptions.md R600: the block raises no exception, trap, fault or abort, and "the list of exception causes
with their codes is therefore empty". Nobody raises a fault, which is neither safe nor unsafe: there is none. -/
inductive Fault where
deriving DecidableEq, Repr

/-- The requests that have no meaning. -/
inductive Refusal where
  /-- Raised by an arm of `exec` whose instruction has no meaning yet: no arm does. Safe. -/
  | notModelled (mnemonic : String)
  /-- Raised by a memory operation other than `init` before `init` (R31, R36, 93_implementation_defined.md U1).
  Safe: the spec gives it no meaning. -/
  | beforeInit
  /-- Raised by a memory operation other than `init` after `destroy`, a second `destroy` among them (R31, R701,
  U1). Safe: the spec gives it no meaning. -/
  | afterDestroy
  /-- Raised by two operations overlapping in time on the one memory system (R45, R608, U2). Safe: the spec gives
  them no meaning. -/
  | overlappingOperations
deriving DecidableEq, Repr

end Sys2Proof.Machine
end

