-- ==== Sys2Proof/Machine/Ops.lean ====
section
/-! DEFINITION. The named operations over RAM and over the ports. There is no operation that takes an exception or
returns from one, because the block has neither (60_exceptions.md R600, R612). -/

namespace Sys2Proof.Machine

/-! ## RAM as a list of bytes -/

/-- The byte of RAM at an offset; an offset the list does not hold reads as `Config.unlistedByte` (R35). -/
def Memory.readByte : Memory → Nat → Byte
  | [], _ => Config.unlistedByte
  | (k, b) :: rest, a => if k = a then b else Memory.readByte rest a

/-- RAM with the byte at an offset replaced, in canonical form. -/
def Memory.writeByte : Memory → Nat → Byte → Memory
  | [], a, v => if v = Config.unlistedByte then [] else [(a, v)]
  | (k, b) :: rest, a, v =>
    if a < k then
      if v = Config.unlistedByte then (k, b) :: rest else (a, v) :: (k, b) :: rest
    else if a = k then
      if v = Config.unlistedByte then rest else (a, v) :: rest
    else (k, b) :: Memory.writeByte rest a v

/-- The canonical form from an offset on: strictly rising offsets, no byte equal to what an unlisted one reads as. -/
def Memory.wfFrom : Nat → Memory → Bool
  | _, [] => true
  | lo, (k, b) :: rest => decide (lo ≤ k) && b != Config.unlistedByte && Memory.wfFrom (k + 1) rest

/-- The canonical form: equal RAM contents are equal lists. -/
def Memory.wf (m : Memory) : Bool := Memory.wfFrom 0 m

/-- Every listed offset lies below `size` (R30: only offsets 0 to RAM_SIZE - 1 hold storage). -/
def Memory.below (size : Nat) (m : Memory) : Bool := m.all fun c => decide (c.1 < size)

/-! ## Big-endian access (20_memory.md R61 to R63) -/

/-- The bytes at `n` consecutive offsets, lowest offset first. -/
def Memory.readBytes (m : Memory) (p n : Nat) : List Byte := (List.range n).map fun k => Memory.readByte m (p + k)

/-- The number a list of bytes stands for, most significant byte first. -/
def beNat (bytes : List Byte) : Nat := bytes.foldl (fun acc b => acc * 256 + b.toNat) 0

/-- `MemRead(paddr, n)` of R62: `RAM[paddr] || ... || RAM[paddr + n - 1]`. -/
def memRead (m : Memory) (p n : Nat) : BitVec (8 * n) := BitVec.ofNat (8 * n) (beNat (Memory.readBytes m p n))

/-- The bytes of a value, most significant first: byte `k` is `v[8(n-k)-1 : 8(n-k-1)]` (R63). -/
def beBytes (n : Nat) (v : BitVec (8 * n)) : List Byte :=
  (List.range n).map fun k => v.extractLsb' (8 * (n - 1 - k)) 8

/-- Bytes stored at consecutive offsets, the first at `p`. -/
def Memory.writeBytes : Memory → Nat → List Byte → Memory
  | m, _, [] => m
  | m, p, b :: rest => Memory.writeBytes (Memory.writeByte m p b) (p + 1) rest

/-- `MemWrite(paddr, n, v)` of R63. -/
def memWrite (m : Memory) (p n : Nat) (v : BitVec (8 * n)) : Memory := Memory.writeBytes m p (beBytes n v)

/-! ## The ports -/

/-- The next result is given to the host (00_scope.md R12). -/
def State.respond (r : Response) (s : State) : State := { s with responses := s.responses ++ [r] }

/-- The decoder answers a request with a record; it reads and writes no state (40_decoder_ops.md R163 (e)). -/
def deliver (d : DecodedInstruction) (s : State) : Host.Outcome State Fault Refusal :=
  .next (s.respond (.decoded d))

/-- R31: an operation other than `init` needs `life = Live`, and is refused otherwise. -/
def whenLive {aw : Nat} {α : Type} (m : MemorySystem aw) (result : α) : Except Refusal α :=
  match m.life with
  | .live => .ok result
  | .uninit => .error .beforeInit
  | .destroyed => .error .afterDestroy

end Sys2Proof.Machine
end

