-- ==== Sys2Proof/Machine/Flags.lean ====
section
/-! DEFINITION. The two kinds of flag the spec computes. The machine has no status register (10_state.md R23): the
only status an operation writes is one of the two counters (46_tlb_ops.md, "Flags written"), and the only flag
sets are the permission flags an entry is filled with (R28, R504, R700). The bits `rc`, `oe`, `lk` and `aa` are
fields of a decoded word (R23) and stand with the fields in Decode.lean and Operands.lean. -/

namespace Sys2Proof.Machine

variable {aw : Nat}

/-- A hit adds exactly one to `tlbHits` (R503). -/
def countHit (m : MemorySystem aw) : MemorySystem aw := { m with tlbHits := m.tlbHits + 1 }

/-- A miss adds exactly one to `tlbMisses` (R504). -/
def countMiss (m : MemorySystem aw) : MemorySystem aw := { m with tlbMisses := m.tlbMisses + 1 }

/-- READ or EXEC, the flags of the instruction TLB's seeds (R700). -/
def instructionSeedFlags : BitVec 3 := Config.permRead ||| Config.permExec

/-- READ or WRITE, the flags of the data TLB's seeds (R700). -/
def dataSeedFlags : BitVec 3 := Config.permRead ||| Config.permWrite

/-- READ or WRITE or EXEC, the flags of every miss fill (R504). -/
def missFlags : BitVec 3 := Config.permRead ||| Config.permWrite ||| Config.permExec

end Sys2Proof.Machine
end

