-- ==== Sys2Proof/Machine/Tlb.lean ====
section
/-! DEFINITION. The TLB translator (46_tlb_ops.md R500 to R509), for any address width. -/

namespace Sys2Proof.Machine

variable {aw : Nat}

/-- The page base of an address, `v & ~PAGE_MASK` (R500). -/
def pageBase (v : BitVec aw) : BitVec aw := v &&& ~~~(BitVec.ofNat aw Config.pageMask)

/-- The page offset of an address, `v & PAGE_MASK` (R500). -/
def pageOffset (v : BitVec aw) : BitVec aw := v &&& BitVec.ofNat aw Config.pageMask

/-- The TLB index of an address as a number, `(v >> PAGE_SHIFT) & (TLB_SIZE - 1)` (R500). -/
def tlbIndexNat (v : BitVec aw) : Nat := ((v >>> Config.pageShift) &&& BitVec.ofNat aw (Config.tlbSize - 1)).toNat

theorem tlbIndexNat_lt (v : BitVec aw) : tlbIndexNat v < Config.tlbSize := by
  unfold tlbIndexNat
  rw [BitVec.toNat_and, BitVec.toNat_ofNat]
  exact Nat.lt_of_le_of_lt (Nat.and_le_right.trans (Nat.mod_le _ _)) (by decide)

/-- The TLB index of an address: a value from 0 to 63. -/
def tlbIndex (v : BitVec aw) : Fin Config.tlbSize := ⟨tlbIndexNat v, tlbIndexNat_lt v⟩

/-- The TLB that `isInstructionFetch` selects (R502). -/
def MemorySystem.tlb (m : MemorySystem aw) (isInstructionFetch : Bool) : Tlb aw :=
  if isInstructionFetch then m.itlb else m.dtlb

/-- The memory system with the selected TLB replaced. -/
def MemorySystem.withTlb (m : MemorySystem aw) (isInstructionFetch : Bool) (t : Tlb aw) : MemorySystem aw :=
  if isInstructionFetch then { m with itlb := t } else { m with dtlb := t }

/-- `Insert(T, vaddr, paddr, flags)` of R501: the whole entry at the index of `vaddr` is replaced. -/
def tlbInsert (t : Tlb aw) (vaddr paddr : BitVec aw) (flags : BitVec 3) : Tlb aw :=
  t.set (tlbIndex vaddr).val
    { vaddrTag := pageBase vaddr, paddrBase := pageBase paddr, permissionFlags := flags, valid := true }
    (tlbIndex vaddr).isLt

/-- The hit condition of R503 on an entry: valid, and tagged with the page of the address. -/
def TlbEntry.hits (e : TlbEntry aw) (vaddr : BitVec aw) : Bool := e.valid && e.vaddrTag == pageBase vaddr

/-- `Translate(vaddr, isInstructionFetch)` of R502 to R504: the physical address and the memory system after it. -/
def translate (vaddr : BitVec aw) (isInstructionFetch : Bool) (m : MemorySystem aw) : BitVec aw × MemorySystem aw :=
  let t := m.tlb isInstructionFetch
  let e := t.get (tlbIndex vaddr)
  if e.hits vaddr then
    (e.paddrBase ||| pageOffset vaddr, countHit m)
  else
    (vaddr, (countMiss m).withTlb isInstructionFetch (tlbInsert t vaddr vaddr missFlags))

/-- An entry with `valid` cleared and nothing else changed (R506, decision D18). -/
def TlbEntry.invalidate (e : TlbEntry aw) : TlbEntry aw := { e with valid := false }

/-- `flush()` of R506: every entry of both TLBs becomes invalid. -/
def flushTlbs (m : MemorySystem aw) : MemorySystem aw :=
  { m with itlb := m.itlb.map TlbEntry.invalidate, dtlb := m.dtlb.map TlbEntry.invalidate }

end Sys2Proof.Machine
end

