-- ==== Sys2Proof/Machine/Access.lean ====
section
/-! DEFINITION. The sized memory accessors (47_mem_access_ops.md R530 to R538), for any address width. -/

namespace Sys2Proof.Machine

variable {aw : Nat}

/-- The bounds test of R530 and R69, `paddr + n - 1 >= RAM_SIZE` on the last byte, on integers and without
wrap-around (20_memory.md R70). -/
def outOfBounds (ramSize p n : Nat) : Bool := decide (p + n - 1 ≥ ramSize)

/-- `Access(vaddr, n, read)` of R530: the translation through the data TLB first, then the bounds test. -/
def accessRead (n : Nat) (vaddr : BitVec aw) (m : MemorySystem aw) : BitVec (8 * n) × MemorySystem aw :=
  let tr := translate vaddr false m
  if outOfBounds tr.2.ramSize tr.1.toNat n then (0, tr.2) else (memRead tr.2.ram tr.1.toNat n, tr.2)

/-- `Access(vaddr, n, write, value)` of R530. -/
def accessWrite (n : Nat) (vaddr : BitVec aw) (value : BitVec (8 * n)) (m : MemorySystem aw) : MemorySystem aw :=
  let tr := translate vaddr false m
  if outOfBounds tr.2.ramSize tr.1.toNat n then tr.2
  else { tr.2 with ram := memWrite tr.2.ram tr.1.toNat n value }

/-- R531. -/
def read8 (vaddr : BitVec aw) (m : MemorySystem aw) : BitVec 8 × MemorySystem aw := accessRead 1 vaddr m

/-- R532. -/
def read16 (vaddr : BitVec aw) (m : MemorySystem aw) : BitVec 16 × MemorySystem aw := accessRead 2 vaddr m

/-- R533. -/
def read32 (vaddr : BitVec aw) (m : MemorySystem aw) : BitVec 32 × MemorySystem aw := accessRead 4 vaddr m

/-- R534. -/
def read64 (vaddr : BitVec aw) (m : MemorySystem aw) : BitVec 64 × MemorySystem aw := accessRead 8 vaddr m

/-- R535. -/
def write8 (vaddr : BitVec aw) (value : BitVec 8) (m : MemorySystem aw) : MemorySystem aw := accessWrite 1 vaddr value m

/-- R536. -/
def write16 (vaddr : BitVec aw) (value : BitVec 16) (m : MemorySystem aw) : MemorySystem aw := accessWrite 2 vaddr value m

/-- R537. -/
def write32 (vaddr : BitVec aw) (value : BitVec 32) (m : MemorySystem aw) : MemorySystem aw := accessWrite 4 vaddr value m

/-- R538. -/
def write64 (vaddr : BitVec aw) (value : BitVec 64) (m : MemorySystem aw) : MemorySystem aw := accessWrite 8 vaddr value m

end Sys2Proof.Machine
end

