-- ==== Sys2Proof/Machine/Operands.lean ====
section
/-! DEFINITION. The record each format gives (40_decoder_ops.md R148 to R160), written over the operands of the
instruction: one definition per format, used by every instruction of it. The common fields `rt, ra, rb, rc, imm,
simm` hold the bits of the word at their positions, whatever the format means by them (R148); each definition says
which operand bits stand there. Fields that are not named hold their default (R27). -/

namespace Sys2Proof.Machine

/-- R105, R148, R153: `imm` and `simm` are the same 16 bits; `rb` and `rc` are their top five bits and lowest bit. -/
def recordD (op : BitVec 6) (rt ra : RegIndex) (imm : BitVec 16) : DecodedInstruction :=
  { raw := layoutD op rt ra imm
    format := .d
    primaryOpcode := op
    rt := rt
    ra := ra
    rb := imm.extractLsb' 11 5
    imm := imm
    simm := imm
    rc := imm.getLsbD 0 }

/-- R103, R148, R151: `bb` and `rb` are the top five bits of the displacement; `rc` is `lk`. -/
def recordB (op : BitVec 6) (bt ba : RegIndex) (bd : BitVec 14) (aa lk : Bool) : DecodedInstruction :=
  { raw := layoutB op bt ba bd aa lk
    format := .b
    primaryOpcode := op
    rt := bt
    ra := ba
    rb := bd.extractLsb' 9 5
    bt := bt
    ba := ba
    bb := bd.extractLsb' 9 5
    imm := bd ++ BitVec.ofBool aa ++ BitVec.ofBool lk
    simm := bd ++ BitVec.ofBool aa ++ BitVec.ofBool lk
    addr := (bd ++ 0b00#2).signExtend 32
    rc := lk
    lk := lk
    aa := aa }

/-- R104, R148, R152: the common fields hold pieces of the 26 bits the format does not look at. -/
def recordSc (op : BitVec 6) (low : BitVec 26) : DecodedInstruction :=
  { raw := layoutSc op low
    format := .sc
    primaryOpcode := op
    rt := low.extractLsb' 21 5
    ra := low.extractLsb' 16 5
    rb := low.extractLsb' 11 5
    imm := low.extractLsb' 0 16
    simm := low.extractLsb' 0 16
    rc := low.getLsbD 0 }

/-- R102, R148, R150: the common fields hold pieces of the branch target; `rc` is `lk`. -/
def recordI (op : BitVec 6) (li : BitVec 24) (aa lk : Bool) : DecodedInstruction :=
  { raw := layoutI op li aa lk
    format := .i
    primaryOpcode := op
    rt := li.extractLsb' 19 5
    ra := li.extractLsb' 14 5
    rb := li.extractLsb' 9 5
    imm := li.extractLsb' 0 14 ++ BitVec.ofBool aa ++ BitVec.ofBool lk
    simm := li.extractLsb' 0 14 ++ BitVec.ofBool aa ++ BitVec.ofBool lk
    addr := (li ++ 0b00#2).signExtend 32
    rc := lk
    lk := lk
    aa := aa }

/-- R111, R148, R159: `sh` and `rb` are the same bits. -/
def recordM (op : BitVec 6) (rt ra sh mb me : RegIndex) (rc : Bool) : DecodedInstruction :=
  { raw := layoutM op rt ra sh mb me rc
    format := .m
    primaryOpcode := op
    rt := rt
    ra := ra
    rb := sh
    imm := sh ++ mb ++ me ++ BitVec.ofBool rc
    simm := sh ++ mb ++ me ++ BitVec.ofBool rc
    sh := sh
    mb := mb
    me := me
    rc := rc }

/-- R113, R148, R160: a placeholder format, only the common fields are filled. -/
def recordMd (op : BitVec 6) (sel : BitVec 3) (rt ra rb : RegIndex) (mid : BitVec 6) (low : BitVec 2) :
    DecodedInstruction :=
  { raw := layoutMd op sel rt ra rb mid low
    format := .md
    primaryOpcode := op
    rt := rt
    ra := ra
    rb := rb
    imm := rb ++ mid ++ sel ++ low
    simm := rb ++ mid ++ sel ++ low
    rc := low.getLsbD 0 }

/-- R113, R148, R160: a placeholder format, only the common fields are filled. -/
def recordMds (op : BitVec 6) (sel : BitVec 4) (rt ra rb : RegIndex) (mid : BitVec 6) (rc : Bool) :
    DecodedInstruction :=
  { raw := layoutMds op sel rt ra rb mid rc
    format := .mds
    primaryOpcode := op
    rt := rt
    ra := ra
    rb := rb
    imm := rb ++ mid ++ sel ++ BitVec.ofBool rc
    simm := rb ++ mid ++ sel ++ BitVec.ofBool rc
    rc := rc }

/-- R106, R148, R154: `simm` is the displacement with its two low bits zero, `imm` keeps them; `rc` is the lowest
bit of the selector. -/
def recordDs (op : BitVec 6) (xo : BitVec 2) (rt ra : RegIndex) (ds : BitVec 14) : DecodedInstruction :=
  { raw := layoutDs op xo rt ra ds
    format := .ds
    primaryOpcode := op
    rt := rt
    ra := ra
    rb := ds.extractLsb' 9 5
    imm := ds ++ xo
    simm := ds ++ 0b00#2
    rc := xo.getLsbD 0 }

/-- R108, R148, R149, R156: `rc` is `lk`, and `aa` stays false. -/
def recordXl (op : BitVec 6) (xo : BitVec 10) (bt ba bb : RegIndex) (lk : Bool) : DecodedInstruction :=
  { raw := layoutXl op xo bt ba bb lk
    format := .xl
    primaryOpcode := op
    extendedOpcode := xo
    rt := bt
    ra := ba
    rb := bb
    bt := bt
    ba := ba
    bb := bb
    imm := bb ++ xo ++ BitVec.ofBool lk
    simm := bb ++ xo ++ BitVec.ofBool lk
    rc := lk
    lk := lk }

/-- R107, R148, R149, R155: `oe` is the top bit of the extended opcode. -/
def recordX (op : BitVec 6) (xo : BitVec 10) (rt ra rb : RegIndex) (rc : Bool) : DecodedInstruction :=
  { raw := layoutX op xo rt ra rb rc
    format := .x
    primaryOpcode := op
    extendedOpcode := xo
    rt := rt
    ra := ra
    rb := rb
    imm := rb ++ xo ++ BitVec.ofBool rc
    simm := rb ++ xo ++ BitVec.ofBool rc
    rc := rc
    oe := xo.getLsbD 9 }

/-- R107 with bit 10 free (R124, decision D5), R148, R149, R155: `oe` follows the word. -/
def recordXo (op : BitVec 6) (xo : BitVec 9) (rt ra rb : RegIndex) (oe rc : Bool) : DecodedInstruction :=
  { raw := layoutXo op xo rt ra rb oe rc
    format := .x
    primaryOpcode := op
    extendedOpcode := BitVec.ofBool oe ++ xo
    rt := rt
    ra := ra
    rb := rb
    imm := rb ++ BitVec.ofBool oe ++ xo ++ BitVec.ofBool rc
    simm := rb ++ BitVec.ofBool oe ++ xo ++ BitVec.ofBool rc
    rc := rc
    oe := oe }

/-- R109, R112, R148, R149, R157: `ra` and `rb` are the low and the high half of `spr`. -/
def recordXfx (op : BitVec 6) (xo : BitVec 10) (rt : RegIndex) (spr : BitVec 10) (rc : Bool) :
    DecodedInstruction :=
  { raw := layoutXfx op xo rt spr rc
    format := .xfx
    primaryOpcode := op
    extendedOpcode := xo
    rt := rt
    ra := spr.extractLsb' 0 5
    rb := spr.extractLsb' 5 5
    imm := spr.extractLsb' 5 5 ++ xo ++ BitVec.ofBool rc
    simm := spr.extractLsb' 5 5 ++ xo ++ BitVec.ofBool rc
    spr := spr
    rc := rc }

/-- R110, R148, R149, R158: the extended opcode is `frc` over the sub-opcode. -/
def recordA (op : BitVec 6) (sub : BitVec 5) (frt fra frb frc : RegIndex) (rc : Bool) : DecodedInstruction :=
  { raw := layoutA op sub frt fra frb frc rc
    format := .a
    primaryOpcode := op
    extendedOpcode := frc ++ sub
    rt := frt
    ra := fra
    rb := frb
    frt := frt
    fra := fra
    frb := frb
    frc := frc
    imm := frb ++ frc ++ sub ++ BitVec.ofBool rc
    simm := frb ++ frc ++ sub ++ BitVec.ofBool rc
    rc := rc }

end Sys2Proof.Machine
end

