-- ==== Sys2Proof/Machine/AForm.lean ====
section
/-! DEFINITION. The meanings of the instructions of table A, primary opcodes 59 and 63 (45_decode_xfx_a_tables.md, R410 to R430). The block classifies an
instruction word and executes nothing (00_scope.md R4): an instruction's meaning is that the decoder answers
with its record, and that nothing else of the machine changes (R140, R163 (e)). -/

namespace Sys2Proof.Machine

/-- R410 `fdivs` (floating divide single): format A. -/
def execFdivs (frt fra frb frc : RegIndex) (rc : Bool) (s : State) :
    Host.Outcome State Fault Refusal :=
  deliver (recordA 59#6 18#5 frt fra frb frc rc) s

/-- R411 `fsubs` (floating subtract single): format A. -/
def execFsubs (frt fra frb frc : RegIndex) (rc : Bool) (s : State) :
    Host.Outcome State Fault Refusal :=
  deliver (recordA 59#6 20#5 frt fra frb frc rc) s

/-- R412 `fadds` (floating add single): format A. -/
def execFadds (frt fra frb frc : RegIndex) (rc : Bool) (s : State) :
    Host.Outcome State Fault Refusal :=
  deliver (recordA 59#6 21#5 frt fra frb frc rc) s

/-- R413 `fsqrts` (floating square root single): format A. -/
def execFsqrts (frt fra frb frc : RegIndex) (rc : Bool) (s : State) :
    Host.Outcome State Fault Refusal :=
  deliver (recordA 59#6 22#5 frt fra frb frc rc) s

/-- R414 `fres` (floating reciprocal estimate single): format A. -/
def execFres (frt fra frb frc : RegIndex) (rc : Bool) (s : State) :
    Host.Outcome State Fault Refusal :=
  deliver (recordA 59#6 24#5 frt fra frb frc rc) s

/-- R415 `fmuls` (floating multiply single): format A. -/
def execFmuls (frt fra frb frc : RegIndex) (rc : Bool) (s : State) :
    Host.Outcome State Fault Refusal :=
  deliver (recordA 59#6 25#5 frt fra frb frc rc) s

/-- R416 `fmsubs` (floating multiply-subtract single): format A. -/
def execFmsubs (frt fra frb frc : RegIndex) (rc : Bool) (s : State) :
    Host.Outcome State Fault Refusal :=
  deliver (recordA 59#6 28#5 frt fra frb frc rc) s

/-- R417 `fmadds` (floating multiply-add single): format A. -/
def execFmadds (frt fra frb frc : RegIndex) (rc : Bool) (s : State) :
    Host.Outcome State Fault Refusal :=
  deliver (recordA 59#6 29#5 frt fra frb frc rc) s

/-- R418 `fnmsubs` (floating negative multiply-subtract single): format A. -/
def execFnmsubs (frt fra frb frc : RegIndex) (rc : Bool) (s : State) :
    Host.Outcome State Fault Refusal :=
  deliver (recordA 59#6 30#5 frt fra frb frc rc) s

/-- R419 `fnmadds` (floating negative multiply-add single): format A. -/
def execFnmadds (frt fra frb frc : RegIndex) (rc : Bool) (s : State) :
    Host.Outcome State Fault Refusal :=
  deliver (recordA 59#6 31#5 frt fra frb frc rc) s

/-- R420 `fdiv` (floating divide): format A. -/
def execFdiv (frt fra frb frc : RegIndex) (rc : Bool) (s : State) :
    Host.Outcome State Fault Refusal :=
  deliver (recordA 63#6 18#5 frt fra frb frc rc) s

/-- R421 `fsub` (floating subtract): format A. -/
def execFsub (frt fra frb frc : RegIndex) (rc : Bool) (s : State) :
    Host.Outcome State Fault Refusal :=
  deliver (recordA 63#6 20#5 frt fra frb frc rc) s

/-- R422 `fadd` (floating add): format A. -/
def execFadd (frt fra frb frc : RegIndex) (rc : Bool) (s : State) :
    Host.Outcome State Fault Refusal :=
  deliver (recordA 63#6 21#5 frt fra frb frc rc) s

/-- R423 `fsqrt` (floating square root): format A. -/
def execFsqrt (frt fra frb frc : RegIndex) (rc : Bool) (s : State) :
    Host.Outcome State Fault Refusal :=
  deliver (recordA 63#6 22#5 frt fra frb frc rc) s

/-- R424 `fsel` (floating select): format A. -/
def execFsel (frt fra frb frc : RegIndex) (rc : Bool) (s : State) :
    Host.Outcome State Fault Refusal :=
  deliver (recordA 63#6 23#5 frt fra frb frc rc) s

/-- R425 `fmul` (floating multiply): format A. -/
def execFmul (frt fra frb frc : RegIndex) (rc : Bool) (s : State) :
    Host.Outcome State Fault Refusal :=
  deliver (recordA 63#6 25#5 frt fra frb frc rc) s

/-- R426 `frsqrte` (floating reciprocal square root estimate): format A. -/
def execFrsqrte (frt fra frb frc : RegIndex) (rc : Bool) (s : State) :
    Host.Outcome State Fault Refusal :=
  deliver (recordA 63#6 26#5 frt fra frb frc rc) s

/-- R427 `fmsub` (floating multiply-subtract): format A. -/
def execFmsub (frt fra frb frc : RegIndex) (rc : Bool) (s : State) :
    Host.Outcome State Fault Refusal :=
  deliver (recordA 63#6 28#5 frt fra frb frc rc) s

/-- R428 `fmadd` (floating multiply-add): format A. -/
def execFmadd (frt fra frb frc : RegIndex) (rc : Bool) (s : State) :
    Host.Outcome State Fault Refusal :=
  deliver (recordA 63#6 29#5 frt fra frb frc rc) s

/-- R429 `fnmsub` (floating negative multiply-subtract): format A. -/
def execFnmsub (frt fra frb frc : RegIndex) (rc : Bool) (s : State) :
    Host.Outcome State Fault Refusal :=
  deliver (recordA 63#6 30#5 frt fra frb frc rc) s

/-- R430 `fnmadd` (floating negative multiply-add): format A. -/
def execFnmadd (frt fra frb frc : RegIndex) (rc : Bool) (s : State) :
    Host.Outcome State Fault Refusal :=
  deliver (recordA 63#6 31#5 frt fra frb frc rc) s

end Sys2Proof.Machine
end

