-- ==== Sys2Proof/Machine/Primary.lean ====
section
/-! DEFINITION. The meanings of the instructions of table PRIMARY (41_decode_primary_table.md, R200 to R256). The block classifies an
instruction word and executes nothing (00_scope.md R4): an instruction's meaning is that the decoder answers
with its record, and that nothing else of the machine changes (R140, R163 (e)). -/

namespace Sys2Proof.Machine

/-- R200 `tdi` (trap doubleword immediate (64-bit)): format D. -/
def execTdi (rt ra : RegIndex) (imm : BitVec 16) (s : State) :
    Host.Outcome State Fault Refusal :=
  deliver (recordD 2#6 rt ra imm) s

/-- R201 `twi` (trap word immediate): format D. -/
def execTwi (rt ra : RegIndex) (imm : BitVec 16) (s : State) :
    Host.Outcome State Fault Refusal :=
  deliver (recordD 3#6 rt ra imm) s

/-- R202 `mulli` (multiply low immediate): format D. -/
def execMulli (rt ra : RegIndex) (imm : BitVec 16) (s : State) :
    Host.Outcome State Fault Refusal :=
  deliver (recordD 7#6 rt ra imm) s

/-- R203 `subfic` (subtract from immediate carrying): format D. -/
def execSubfic (rt ra : RegIndex) (imm : BitVec 16) (s : State) :
    Host.Outcome State Fault Refusal :=
  deliver (recordD 8#6 rt ra imm) s

/-- R204 `cmpli` (compare logical immediate): format D. -/
def execCmpli (rt ra : RegIndex) (imm : BitVec 16) (s : State) :
    Host.Outcome State Fault Refusal :=
  deliver (recordD 10#6 rt ra imm) s

/-- R205 `cmpi` (compare immediate): format D. -/
def execCmpi (rt ra : RegIndex) (imm : BitVec 16) (s : State) :
    Host.Outcome State Fault Refusal :=
  deliver (recordD 11#6 rt ra imm) s

/-- R206 `addic` (add immediate carrying): format D. -/
def execAddic (rt ra : RegIndex) (imm : BitVec 16) (s : State) :
    Host.Outcome State Fault Refusal :=
  deliver (recordD 12#6 rt ra imm) s

/-- R207 `addic.` (add immediate carrying and record): format D. -/
def execAddicDot (rt ra : RegIndex) (imm : BitVec 16) (s : State) :
    Host.Outcome State Fault Refusal :=
  deliver (recordD 13#6 rt ra imm) s

/-- R208 `addi` (add immediate): format D. -/
def execAddi (rt ra : RegIndex) (imm : BitVec 16) (s : State) :
    Host.Outcome State Fault Refusal :=
  deliver (recordD 14#6 rt ra imm) s

/-- R209 `addis` (add immediate shifted): format D. -/
def execAddis (rt ra : RegIndex) (imm : BitVec 16) (s : State) :
    Host.Outcome State Fault Refusal :=
  deliver (recordD 15#6 rt ra imm) s

/-- R210 `bc` (branch conditional): format B. -/
def execBc (bt ba : RegIndex) (bd : BitVec 14) (aa lk : Bool) (s : State) :
    Host.Outcome State Fault Refusal :=
  deliver (recordB 16#6 bt ba bd aa lk) s

/-- R211 `sc` (system call): format SC. -/
def execSc (low : BitVec 26) (s : State) :
    Host.Outcome State Fault Refusal :=
  deliver (recordSc 17#6 low) s

/-- R212 `b` (branch): format I. -/
def execB (li : BitVec 24) (aa lk : Bool) (s : State) :
    Host.Outcome State Fault Refusal :=
  deliver (recordI 18#6 li aa lk) s

/-- R213 `rlwimi` (rotate left word immediate then mask insert): format M. -/
def execRlwimi (rt ra sh mb me : RegIndex) (rc : Bool) (s : State) :
    Host.Outcome State Fault Refusal :=
  deliver (recordM 20#6 rt ra sh mb me rc) s

/-- R214 `rlwinm` (rotate left word immediate then AND with mask): format M. -/
def execRlwinm (rt ra sh mb me : RegIndex) (rc : Bool) (s : State) :
    Host.Outcome State Fault Refusal :=
  deliver (recordM 21#6 rt ra sh mb me rc) s

/-- R215 `rlwnm` (rotate left word then AND with mask): format M. -/
def execRlwnm (rt ra sh mb me : RegIndex) (rc : Bool) (s : State) :
    Host.Outcome State Fault Refusal :=
  deliver (recordM 23#6 rt ra sh mb me rc) s

/-- R216 `ori` (OR immediate): format D. -/
def execOri (rt ra : RegIndex) (imm : BitVec 16) (s : State) :
    Host.Outcome State Fault Refusal :=
  deliver (recordD 24#6 rt ra imm) s

/-- R217 `oris` (OR immediate shifted): format D. -/
def execOris (rt ra : RegIndex) (imm : BitVec 16) (s : State) :
    Host.Outcome State Fault Refusal :=
  deliver (recordD 25#6 rt ra imm) s

/-- R218 `xori` (XOR immediate): format D. -/
def execXori (rt ra : RegIndex) (imm : BitVec 16) (s : State) :
    Host.Outcome State Fault Refusal :=
  deliver (recordD 26#6 rt ra imm) s

/-- R219 `xoris` (XOR immediate shifted): format D. -/
def execXoris (rt ra : RegIndex) (imm : BitVec 16) (s : State) :
    Host.Outcome State Fault Refusal :=
  deliver (recordD 27#6 rt ra imm) s

/-- R220 `andi.` (AND immediate and record): format D. -/
def execAndiDot (rt ra : RegIndex) (imm : BitVec 16) (s : State) :
    Host.Outcome State Fault Refusal :=
  deliver (recordD 28#6 rt ra imm) s

/-- R221 `andis.` (AND immediate shifted and record): format D. -/
def execAndisDot (rt ra : RegIndex) (imm : BitVec 16) (s : State) :
    Host.Outcome State Fault Refusal :=
  deliver (recordD 29#6 rt ra imm) s

/-- R222 `rldicl` (rotate left doubleword immediate then clear left (64-bit placeholder)): format MD. -/
def execRldicl (rt ra rb : RegIndex) (mid : BitVec 6) (low : BitVec 2) (s : State) :
    Host.Outcome State Fault Refusal :=
  deliver (recordMd 30#6 0#3 rt ra rb mid low) s

/-- R223 `rldicr` (rotate left doubleword immediate then clear right (64-bit placeholder)): format MD. -/
def execRldicr (rt ra rb : RegIndex) (mid : BitVec 6) (low : BitVec 2) (s : State) :
    Host.Outcome State Fault Refusal :=
  deliver (recordMd 30#6 1#3 rt ra rb mid low) s

/-- R224 `rldic` (rotate left doubleword immediate then clear (64-bit placeholder)): format MD. -/
def execRldic (rt ra rb : RegIndex) (mid : BitVec 6) (low : BitVec 2) (s : State) :
    Host.Outcome State Fault Refusal :=
  deliver (recordMd 30#6 2#3 rt ra rb mid low) s

/-- R225 `rldimi` (rotate left doubleword immediate then mask insert (64-bit placeholder)): format MD. -/
def execRldimi (rt ra rb : RegIndex) (mid : BitVec 6) (low : BitVec 2) (s : State) :
    Host.Outcome State Fault Refusal :=
  deliver (recordMd 30#6 3#3 rt ra rb mid low) s

/-- R226 `rldcl` (rotate left doubleword then clear left (64-bit placeholder)): format MDS. -/
def execRldcl (rt ra rb : RegIndex) (mid : BitVec 6) (rc : Bool) (s : State) :
    Host.Outcome State Fault Refusal :=
  deliver (recordMds 30#6 8#4 rt ra rb mid rc) s

/-- R227 `rldcr` (rotate left doubleword then clear right (64-bit placeholder)): format MDS. -/
def execRldcr (rt ra rb : RegIndex) (mid : BitVec 6) (rc : Bool) (s : State) :
    Host.Outcome State Fault Refusal :=
  deliver (recordMds 30#6 9#4 rt ra rb mid rc) s

/-- R228 `lwz` (load word and zero): format D. -/
def execLwz (rt ra : RegIndex) (imm : BitVec 16) (s : State) :
    Host.Outcome State Fault Refusal :=
  deliver (recordD 32#6 rt ra imm) s

/-- R229 `lwzu` (load word and zero with update): format D. -/
def execLwzu (rt ra : RegIndex) (imm : BitVec 16) (s : State) :
    Host.Outcome State Fault Refusal :=
  deliver (recordD 33#6 rt ra imm) s

/-- R230 `lbz` (load byte and zero): format D. -/
def execLbz (rt ra : RegIndex) (imm : BitVec 16) (s : State) :
    Host.Outcome State Fault Refusal :=
  deliver (recordD 34#6 rt ra imm) s

/-- R231 `lbzu` (load byte and zero with update): format D. -/
def execLbzu (rt ra : RegIndex) (imm : BitVec 16) (s : State) :
    Host.Outcome State Fault Refusal :=
  deliver (recordD 35#6 rt ra imm) s

/-- R232 `stw` (store word): format D. -/
def execStw (rt ra : RegIndex) (imm : BitVec 16) (s : State) :
    Host.Outcome State Fault Refusal :=
  deliver (recordD 36#6 rt ra imm) s

/-- R233 `stwu` (store word with update): format D. -/
def execStwu (rt ra : RegIndex) (imm : BitVec 16) (s : State) :
    Host.Outcome State Fault Refusal :=
  deliver (recordD 37#6 rt ra imm) s

/-- R234 `stb` (store byte): format D. -/
def execStb (rt ra : RegIndex) (imm : BitVec 16) (s : State) :
    Host.Outcome State Fault Refusal :=
  deliver (recordD 38#6 rt ra imm) s

/-- R235 `stbu` (store byte with update): format D. -/
def execStbu (rt ra : RegIndex) (imm : BitVec 16) (s : State) :
    Host.Outcome State Fault Refusal :=
  deliver (recordD 39#6 rt ra imm) s

/-- R236 `lhz` (load halfword and zero): format D. -/
def execLhz (rt ra : RegIndex) (imm : BitVec 16) (s : State) :
    Host.Outcome State Fault Refusal :=
  deliver (recordD 40#6 rt ra imm) s

/-- R237 `lhzu` (load halfword and zero with update): format D. -/
def execLhzu (rt ra : RegIndex) (imm : BitVec 16) (s : State) :
    Host.Outcome State Fault Refusal :=
  deliver (recordD 41#6 rt ra imm) s

/-- R238 `lha` (load halfword algebraic): format D. -/
def execLha (rt ra : RegIndex) (imm : BitVec 16) (s : State) :
    Host.Outcome State Fault Refusal :=
  deliver (recordD 42#6 rt ra imm) s

/-- R239 `lhau` (load halfword algebraic with update): format D. -/
def execLhau (rt ra : RegIndex) (imm : BitVec 16) (s : State) :
    Host.Outcome State Fault Refusal :=
  deliver (recordD 43#6 rt ra imm) s

/-- R240 `sth` (store halfword): format D. -/
def execSth (rt ra : RegIndex) (imm : BitVec 16) (s : State) :
    Host.Outcome State Fault Refusal :=
  deliver (recordD 44#6 rt ra imm) s

/-- R241 `sthu` (store halfword with update): format D. -/
def execSthu (rt ra : RegIndex) (imm : BitVec 16) (s : State) :
    Host.Outcome State Fault Refusal :=
  deliver (recordD 45#6 rt ra imm) s

/-- R242 `lmw` (load multiple word): format D. -/
def execLmw (rt ra : RegIndex) (imm : BitVec 16) (s : State) :
    Host.Outcome State Fault Refusal :=
  deliver (recordD 46#6 rt ra imm) s

/-- R243 `stmw` (store multiple word): format D. -/
def execStmw (rt ra : RegIndex) (imm : BitVec 16) (s : State) :
    Host.Outcome State Fault Refusal :=
  deliver (recordD 47#6 rt ra imm) s

/-- R244 `lfs` (load floating-point single): format D. -/
def execLfs (rt ra : RegIndex) (imm : BitVec 16) (s : State) :
    Host.Outcome State Fault Refusal :=
  deliver (recordD 48#6 rt ra imm) s

/-- R245 `lfsu` (load floating-point single with update): format D. -/
def execLfsu (rt ra : RegIndex) (imm : BitVec 16) (s : State) :
    Host.Outcome State Fault Refusal :=
  deliver (recordD 49#6 rt ra imm) s

/-- R246 `lfd` (load floating-point double): format D. -/
def execLfd (rt ra : RegIndex) (imm : BitVec 16) (s : State) :
    Host.Outcome State Fault Refusal :=
  deliver (recordD 50#6 rt ra imm) s

/-- R247 `lfdu` (load floating-point double with update): format D. -/
def execLfdu (rt ra : RegIndex) (imm : BitVec 16) (s : State) :
    Host.Outcome State Fault Refusal :=
  deliver (recordD 51#6 rt ra imm) s

/-- R248 `stfs` (store floating-point single): format D. -/
def execStfs (rt ra : RegIndex) (imm : BitVec 16) (s : State) :
    Host.Outcome State Fault Refusal :=
  deliver (recordD 52#6 rt ra imm) s

/-- R249 `stfsu` (store floating-point single with update): format D. -/
def execStfsu (rt ra : RegIndex) (imm : BitVec 16) (s : State) :
    Host.Outcome State Fault Refusal :=
  deliver (recordD 53#6 rt ra imm) s

/-- R250 `stfd` (store floating-point double): format D. -/
def execStfd (rt ra : RegIndex) (imm : BitVec 16) (s : State) :
    Host.Outcome State Fault Refusal :=
  deliver (recordD 54#6 rt ra imm) s

/-- R251 `stfdu` (store floating-point double with update): format D. -/
def execStfdu (rt ra : RegIndex) (imm : BitVec 16) (s : State) :
    Host.Outcome State Fault Refusal :=
  deliver (recordD 55#6 rt ra imm) s

/-- R252 `ld` (load doubleword (64-bit)): format DS. -/
def execLd (rt ra : RegIndex) (ds : BitVec 14) (s : State) :
    Host.Outcome State Fault Refusal :=
  deliver (recordDs 58#6 0#2 rt ra ds) s

/-- R253 `ldu` (load doubleword with update (64-bit)): format DS. -/
def execLdu (rt ra : RegIndex) (ds : BitVec 14) (s : State) :
    Host.Outcome State Fault Refusal :=
  deliver (recordDs 58#6 1#2 rt ra ds) s

/-- R254 `lwa` (load word algebraic (64-bit)): format DS. -/
def execLwa (rt ra : RegIndex) (ds : BitVec 14) (s : State) :
    Host.Outcome State Fault Refusal :=
  deliver (recordDs 58#6 2#2 rt ra ds) s

/-- R255 `std` (store doubleword (64-bit)): format DS. -/
def execStd (rt ra : RegIndex) (ds : BitVec 14) (s : State) :
    Host.Outcome State Fault Refusal :=
  deliver (recordDs 62#6 0#2 rt ra ds) s

/-- R256 `stdu` (store doubleword with update (64-bit)): format DS. -/
def execStdu (rt ra : RegIndex) (ds : BitVec 14) (s : State) :
    Host.Outcome State Fault Refusal :=
  deliver (recordDs 62#6 1#2 rt ra ds) s

end Sys2Proof.Machine
end

