-- ==== Sys2Proof/Machine/XFormA.lean ====
section
/-! DEFINITION. The meanings of the instructions of table X, primary opcode 31, extended opcodes 0 to 310 (43_decode_x_table_a.md, R280 to R323). The block classifies an
instruction word and executes nothing (00_scope.md R4): an instruction's meaning is that the decoder answers
with its record, and that nothing else of the machine changes (R140, R163 (e)). -/

namespace Sys2Proof.Machine

/-- R280 `cmp` (compare): format X. -/
def execCmp (rt ra rb : RegIndex) (rc : Bool) (s : State) :
    Host.Outcome State Fault Refusal :=
  deliver (recordX 31#6 0#10 rt ra rb rc) s

/-- R281 `tw` (trap word): format X. -/
def execTw (rt ra rb : RegIndex) (rc : Bool) (s : State) :
    Host.Outcome State Fault Refusal :=
  deliver (recordX 31#6 4#10 rt ra rb rc) s

/-- R282 `subfc` (subtract from carrying): format X. -/
def execSubfc (rt ra rb : RegIndex) (oe rc : Bool) (s : State) :
    Host.Outcome State Fault Refusal :=
  deliver (recordXo 31#6 8#9 rt ra rb oe rc) s

/-- R283 `addc` (add carrying): format X. -/
def execAddc (rt ra rb : RegIndex) (oe rc : Bool) (s : State) :
    Host.Outcome State Fault Refusal :=
  deliver (recordXo 31#6 10#9 rt ra rb oe rc) s

/-- R284 `mulhwu` (multiply high word unsigned): format X. -/
def execMulhwu (rt ra rb : RegIndex) (rc : Bool) (s : State) :
    Host.Outcome State Fault Refusal :=
  deliver (recordX 31#6 11#10 rt ra rb rc) s

/-- R285 `lwarx` (load word and reserve indexed): format X. -/
def execLwarx (rt ra rb : RegIndex) (rc : Bool) (s : State) :
    Host.Outcome State Fault Refusal :=
  deliver (recordX 31#6 20#10 rt ra rb rc) s

/-- R286 `lwzx` (load word and zero indexed): format X. -/
def execLwzx (rt ra rb : RegIndex) (rc : Bool) (s : State) :
    Host.Outcome State Fault Refusal :=
  deliver (recordX 31#6 23#10 rt ra rb rc) s

/-- R287 `slw` (shift left word): format X. -/
def execSlw (rt ra rb : RegIndex) (rc : Bool) (s : State) :
    Host.Outcome State Fault Refusal :=
  deliver (recordX 31#6 24#10 rt ra rb rc) s

/-- R288 `cntlzw` (count leading zeros word): format X. -/
def execCntlzw (rt ra rb : RegIndex) (rc : Bool) (s : State) :
    Host.Outcome State Fault Refusal :=
  deliver (recordX 31#6 26#10 rt ra rb rc) s

/-- R289 `and` (AND): format X. -/
def execAnd (rt ra rb : RegIndex) (rc : Bool) (s : State) :
    Host.Outcome State Fault Refusal :=
  deliver (recordX 31#6 28#10 rt ra rb rc) s

/-- R290 `cmpl` (compare logical): format X. -/
def execCmpl (rt ra rb : RegIndex) (rc : Bool) (s : State) :
    Host.Outcome State Fault Refusal :=
  deliver (recordX 31#6 32#10 rt ra rb rc) s

/-- R291 `subf` (subtract from): format X. -/
def execSubf (rt ra rb : RegIndex) (oe rc : Bool) (s : State) :
    Host.Outcome State Fault Refusal :=
  deliver (recordXo 31#6 40#9 rt ra rb oe rc) s

/-- R292 `dcbst` (data cache block store): format X. -/
def execDcbst (rt ra rb : RegIndex) (rc : Bool) (s : State) :
    Host.Outcome State Fault Refusal :=
  deliver (recordX 31#6 54#10 rt ra rb rc) s

/-- R293 `lwzux` (load word and zero with update indexed): format X. -/
def execLwzux (rt ra rb : RegIndex) (rc : Bool) (s : State) :
    Host.Outcome State Fault Refusal :=
  deliver (recordX 31#6 55#10 rt ra rb rc) s

/-- R294 `andc` (AND with complement): format X. -/
def execAndc (rt ra rb : RegIndex) (rc : Bool) (s : State) :
    Host.Outcome State Fault Refusal :=
  deliver (recordX 31#6 60#10 rt ra rb rc) s

/-- R295 `mulhw` (multiply high word): format X. -/
def execMulhw (rt ra rb : RegIndex) (rc : Bool) (s : State) :
    Host.Outcome State Fault Refusal :=
  deliver (recordX 31#6 75#10 rt ra rb rc) s

/-- R296 `mfmsr` (move from machine state register): format X. -/
def execMfmsr (rt ra rb : RegIndex) (rc : Bool) (s : State) :
    Host.Outcome State Fault Refusal :=
  deliver (recordX 31#6 83#10 rt ra rb rc) s

/-- R297 `dcbf` (data cache block flush): format X. -/
def execDcbf (rt ra rb : RegIndex) (rc : Bool) (s : State) :
    Host.Outcome State Fault Refusal :=
  deliver (recordX 31#6 86#10 rt ra rb rc) s

/-- R298 `lbzx` (load byte and zero indexed): format X. -/
def execLbzx (rt ra rb : RegIndex) (rc : Bool) (s : State) :
    Host.Outcome State Fault Refusal :=
  deliver (recordX 31#6 87#10 rt ra rb rc) s

/-- R299 `neg` (negate): format X. -/
def execNeg (rt ra rb : RegIndex) (oe rc : Bool) (s : State) :
    Host.Outcome State Fault Refusal :=
  deliver (recordXo 31#6 104#9 rt ra rb oe rc) s

/-- R300 `lbzux` (load byte and zero with update indexed): format X. -/
def execLbzux (rt ra rb : RegIndex) (rc : Bool) (s : State) :
    Host.Outcome State Fault Refusal :=
  deliver (recordX 31#6 119#10 rt ra rb rc) s

/-- R301 `nor` (NOR): format X. -/
def execNor (rt ra rb : RegIndex) (rc : Bool) (s : State) :
    Host.Outcome State Fault Refusal :=
  deliver (recordX 31#6 124#10 rt ra rb rc) s

/-- R302 `subfe` (subtract from extended): format X. -/
def execSubfe (rt ra rb : RegIndex) (oe rc : Bool) (s : State) :
    Host.Outcome State Fault Refusal :=
  deliver (recordXo 31#6 136#9 rt ra rb oe rc) s

/-- R303 `adde` (add extended): format X. -/
def execAdde (rt ra rb : RegIndex) (oe rc : Bool) (s : State) :
    Host.Outcome State Fault Refusal :=
  deliver (recordXo 31#6 138#9 rt ra rb oe rc) s

/-- R304 `mtmsr` (move to machine state register): format X. -/
def execMtmsr (rt ra rb : RegIndex) (rc : Bool) (s : State) :
    Host.Outcome State Fault Refusal :=
  deliver (recordX 31#6 146#10 rt ra rb rc) s

/-- R305 `stwcx.` (store word conditional indexed): format X. -/
def execStwcxDot (rt ra rb : RegIndex) (rc : Bool) (s : State) :
    Host.Outcome State Fault Refusal :=
  deliver (recordX 31#6 150#10 rt ra rb rc) s

/-- R306 `stwx` (store word indexed): format X. -/
def execStwx (rt ra rb : RegIndex) (rc : Bool) (s : State) :
    Host.Outcome State Fault Refusal :=
  deliver (recordX 31#6 151#10 rt ra rb rc) s

/-- R307 `stwux` (store word with update indexed): format X. -/
def execStwux (rt ra rb : RegIndex) (rc : Bool) (s : State) :
    Host.Outcome State Fault Refusal :=
  deliver (recordX 31#6 183#10 rt ra rb rc) s

/-- R308 `subfze` (subtract from zero extended): format X. -/
def execSubfze (rt ra rb : RegIndex) (oe rc : Bool) (s : State) :
    Host.Outcome State Fault Refusal :=
  deliver (recordXo 31#6 200#9 rt ra rb oe rc) s

/-- R309 `addze` (add to zero extended): format X. -/
def execAddze (rt ra rb : RegIndex) (oe rc : Bool) (s : State) :
    Host.Outcome State Fault Refusal :=
  deliver (recordXo 31#6 202#9 rt ra rb oe rc) s

/-- R310 `mtsr` (move to segment register): format X. -/
def execMtsr (rt ra rb : RegIndex) (rc : Bool) (s : State) :
    Host.Outcome State Fault Refusal :=
  deliver (recordX 31#6 210#10 rt ra rb rc) s

/-- R311 `stbx` (store byte indexed): format X. -/
def execStbx (rt ra rb : RegIndex) (rc : Bool) (s : State) :
    Host.Outcome State Fault Refusal :=
  deliver (recordX 31#6 215#10 rt ra rb rc) s

/-- R312 `subfme` (subtract from minus one extended): format X. -/
def execSubfme (rt ra rb : RegIndex) (oe rc : Bool) (s : State) :
    Host.Outcome State Fault Refusal :=
  deliver (recordXo 31#6 232#9 rt ra rb oe rc) s

/-- R313 `addme` (add to minus one extended): format X. -/
def execAddme (rt ra rb : RegIndex) (oe rc : Bool) (s : State) :
    Host.Outcome State Fault Refusal :=
  deliver (recordXo 31#6 234#9 rt ra rb oe rc) s

/-- R314 `mullw` (multiply low word): format X. -/
def execMullw (rt ra rb : RegIndex) (oe rc : Bool) (s : State) :
    Host.Outcome State Fault Refusal :=
  deliver (recordXo 31#6 235#9 rt ra rb oe rc) s

/-- R315 `mtsrin` (move to segment register indirect): format X. -/
def execMtsrin (rt ra rb : RegIndex) (rc : Bool) (s : State) :
    Host.Outcome State Fault Refusal :=
  deliver (recordX 31#6 242#10 rt ra rb rc) s

/-- R316 `dcbtst` (data cache block touch for store): format X. -/
def execDcbtst (rt ra rb : RegIndex) (rc : Bool) (s : State) :
    Host.Outcome State Fault Refusal :=
  deliver (recordX 31#6 246#10 rt ra rb rc) s

/-- R317 `stbux` (store byte with update indexed): format X. -/
def execStbux (rt ra rb : RegIndex) (rc : Bool) (s : State) :
    Host.Outcome State Fault Refusal :=
  deliver (recordX 31#6 247#10 rt ra rb rc) s

/-- R318 `add` (add): format X. -/
def execAdd (rt ra rb : RegIndex) (oe rc : Bool) (s : State) :
    Host.Outcome State Fault Refusal :=
  deliver (recordXo 31#6 266#9 rt ra rb oe rc) s

/-- R319 `dcbt` (data cache block touch): format X. -/
def execDcbt (rt ra rb : RegIndex) (rc : Bool) (s : State) :
    Host.Outcome State Fault Refusal :=
  deliver (recordX 31#6 278#10 rt ra rb rc) s

/-- R320 `lhzx` (load halfword and zero indexed): format X. -/
def execLhzx (rt ra rb : RegIndex) (rc : Bool) (s : State) :
    Host.Outcome State Fault Refusal :=
  deliver (recordX 31#6 279#10 rt ra rb rc) s

/-- R321 `eqv` (equivalent): format X. -/
def execEqv (rt ra rb : RegIndex) (rc : Bool) (s : State) :
    Host.Outcome State Fault Refusal :=
  deliver (recordX 31#6 284#10 rt ra rb rc) s

/-- R322 `tlbie` (TLB invalidate entry): format X. -/
def execTlbie (rt ra rb : RegIndex) (rc : Bool) (s : State) :
    Host.Outcome State Fault Refusal :=
  deliver (recordX 31#6 306#10 rt ra rb rc) s

/-- R323 `eciwx` (external control in word indexed): format X. -/
def execEciwx (rt ra rb : RegIndex) (rc : Bool) (s : State) :
    Host.Outcome State Fault Refusal :=
  deliver (recordX 31#6 310#10 rt ra rb rc) s

end Sys2Proof.Machine
end

