-- ==== Sys2Proof/Machine/XFormB.lean ====
section
/-! DEFINITION. The meanings of the instructions of table X, primary opcode 31, extended opcodes 311 to 1014 (44_decode_x_table_b.md, R340 to R382). The block classifies an
instruction word and executes nothing (00_scope.md R4): an instruction's meaning is that the decoder answers
with its record, and that nothing else of the machine changes (R140, R163 (e)). -/

namespace Sys2Proof.Machine

/-- R340 `lhzux` (load halfword and zero with update indexed): format X. -/
def execLhzux (rt ra rb : RegIndex) (rc : Bool) (s : State) :
    Host.Outcome State Fault Refusal :=
  deliver (recordX 31#6 311#10 rt ra rb rc) s

/-- R341 `xor` (XOR): format X. -/
def execXor (rt ra rb : RegIndex) (rc : Bool) (s : State) :
    Host.Outcome State Fault Refusal :=
  deliver (recordX 31#6 316#10 rt ra rb rc) s

/-- R342 `lhax` (load halfword algebraic indexed): format X. -/
def execLhax (rt ra rb : RegIndex) (rc : Bool) (s : State) :
    Host.Outcome State Fault Refusal :=
  deliver (recordX 31#6 343#10 rt ra rb rc) s

/-- R343 `lhaux` (load halfword algebraic with update indexed): format X. -/
def execLhaux (rt ra rb : RegIndex) (rc : Bool) (s : State) :
    Host.Outcome State Fault Refusal :=
  deliver (recordX 31#6 375#10 rt ra rb rc) s

/-- R344 `sthx` (store halfword indexed): format X. -/
def execSthx (rt ra rb : RegIndex) (rc : Bool) (s : State) :
    Host.Outcome State Fault Refusal :=
  deliver (recordX 31#6 407#10 rt ra rb rc) s

/-- R345 `orc` (OR with complement): format X. -/
def execOrc (rt ra rb : RegIndex) (rc : Bool) (s : State) :
    Host.Outcome State Fault Refusal :=
  deliver (recordX 31#6 412#10 rt ra rb rc) s

/-- R346 `ecowx` (external control out word indexed): format X. -/
def execEcowx (rt ra rb : RegIndex) (rc : Bool) (s : State) :
    Host.Outcome State Fault Refusal :=
  deliver (recordX 31#6 438#10 rt ra rb rc) s

/-- R347 `sthux` (store halfword with update indexed): format X. -/
def execSthux (rt ra rb : RegIndex) (rc : Bool) (s : State) :
    Host.Outcome State Fault Refusal :=
  deliver (recordX 31#6 439#10 rt ra rb rc) s

/-- R348 `or` (OR): format X. -/
def execOr (rt ra rb : RegIndex) (rc : Bool) (s : State) :
    Host.Outcome State Fault Refusal :=
  deliver (recordX 31#6 444#10 rt ra rb rc) s

/-- R349 `divwu` (divide word unsigned): format X. -/
def execDivwu (rt ra rb : RegIndex) (oe rc : Bool) (s : State) :
    Host.Outcome State Fault Refusal :=
  deliver (recordXo 31#6 459#9 rt ra rb oe rc) s

/-- R350 `dcbi` (data cache block invalidate): format X. -/
def execDcbi (rt ra rb : RegIndex) (rc : Bool) (s : State) :
    Host.Outcome State Fault Refusal :=
  deliver (recordX 31#6 470#10 rt ra rb rc) s

/-- R351 `nand` (NAND): format X. -/
def execNand (rt ra rb : RegIndex) (rc : Bool) (s : State) :
    Host.Outcome State Fault Refusal :=
  deliver (recordX 31#6 476#10 rt ra rb rc) s

/-- R352 `divw` (divide word): format X. -/
def execDivw (rt ra rb : RegIndex) (oe rc : Bool) (s : State) :
    Host.Outcome State Fault Refusal :=
  deliver (recordXo 31#6 491#9 rt ra rb oe rc) s

/-- R353 `mcrxr` (move to condition register from XER): format X. -/
def execMcrxr (rt ra rb : RegIndex) (rc : Bool) (s : State) :
    Host.Outcome State Fault Refusal :=
  deliver (recordX 31#6 512#10 rt ra rb rc) s

/-- R354 `lswx` (load string word indexed): format X. -/
def execLswx (rt ra rb : RegIndex) (rc : Bool) (s : State) :
    Host.Outcome State Fault Refusal :=
  deliver (recordX 31#6 533#10 rt ra rb rc) s

/-- R355 `lwbrx` (load word byte-reverse indexed): format X. -/
def execLwbrx (rt ra rb : RegIndex) (rc : Bool) (s : State) :
    Host.Outcome State Fault Refusal :=
  deliver (recordX 31#6 534#10 rt ra rb rc) s

/-- R356 `lfsx` (load floating-point single indexed): format X. -/
def execLfsx (rt ra rb : RegIndex) (rc : Bool) (s : State) :
    Host.Outcome State Fault Refusal :=
  deliver (recordX 31#6 535#10 rt ra rb rc) s

/-- R357 `srw` (shift right word): format X. -/
def execSrw (rt ra rb : RegIndex) (rc : Bool) (s : State) :
    Host.Outcome State Fault Refusal :=
  deliver (recordX 31#6 536#10 rt ra rb rc) s

/-- R358 `tlbsync` (TLB synchronize): format X. -/
def execTlbsync (rt ra rb : RegIndex) (rc : Bool) (s : State) :
    Host.Outcome State Fault Refusal :=
  deliver (recordX 31#6 566#10 rt ra rb rc) s

/-- R359 `lfsux` (load floating-point single with update indexed): format X. -/
def execLfsux (rt ra rb : RegIndex) (rc : Bool) (s : State) :
    Host.Outcome State Fault Refusal :=
  deliver (recordX 31#6 567#10 rt ra rb rc) s

/-- R360 `mfsr` (move from segment register): format X. -/
def execMfsr (rt ra rb : RegIndex) (rc : Bool) (s : State) :
    Host.Outcome State Fault Refusal :=
  deliver (recordX 31#6 595#10 rt ra rb rc) s

/-- R361 `lswi` (load string word immediate): format X. -/
def execLswi (rt ra rb : RegIndex) (rc : Bool) (s : State) :
    Host.Outcome State Fault Refusal :=
  deliver (recordX 31#6 597#10 rt ra rb rc) s

/-- R362 `sync` (synchronize): format X. -/
def execSync (rt ra rb : RegIndex) (rc : Bool) (s : State) :
    Host.Outcome State Fault Refusal :=
  deliver (recordX 31#6 598#10 rt ra rb rc) s

/-- R363 `lfdx` (load floating-point double indexed): format X. -/
def execLfdx (rt ra rb : RegIndex) (rc : Bool) (s : State) :
    Host.Outcome State Fault Refusal :=
  deliver (recordX 31#6 599#10 rt ra rb rc) s

/-- R364 `lfdux` (load floating-point double with update indexed): format X. -/
def execLfdux (rt ra rb : RegIndex) (rc : Bool) (s : State) :
    Host.Outcome State Fault Refusal :=
  deliver (recordX 31#6 631#10 rt ra rb rc) s

/-- R365 `mfsrin` (move from segment register indirect): format X. -/
def execMfsrin (rt ra rb : RegIndex) (rc : Bool) (s : State) :
    Host.Outcome State Fault Refusal :=
  deliver (recordX 31#6 659#10 rt ra rb rc) s

/-- R366 `stswx` (store string word indexed): format X. -/
def execStswx (rt ra rb : RegIndex) (rc : Bool) (s : State) :
    Host.Outcome State Fault Refusal :=
  deliver (recordX 31#6 661#10 rt ra rb rc) s

/-- R367 `stwbrx` (store word byte-reverse indexed): format X. -/
def execStwbrx (rt ra rb : RegIndex) (rc : Bool) (s : State) :
    Host.Outcome State Fault Refusal :=
  deliver (recordX 31#6 662#10 rt ra rb rc) s

/-- R368 `stfsx` (store floating-point single indexed): format X. -/
def execStfsx (rt ra rb : RegIndex) (rc : Bool) (s : State) :
    Host.Outcome State Fault Refusal :=
  deliver (recordX 31#6 663#10 rt ra rb rc) s

/-- R369 `stfsux` (store floating-point single with update indexed): format X. -/
def execStfsux (rt ra rb : RegIndex) (rc : Bool) (s : State) :
    Host.Outcome State Fault Refusal :=
  deliver (recordX 31#6 695#10 rt ra rb rc) s

/-- R370 `stswi` (store string word immediate): format X. -/
def execStswi (rt ra rb : RegIndex) (rc : Bool) (s : State) :
    Host.Outcome State Fault Refusal :=
  deliver (recordX 31#6 725#10 rt ra rb rc) s

/-- R371 `stfdx` (store floating-point double indexed): format X. -/
def execStfdx (rt ra rb : RegIndex) (rc : Bool) (s : State) :
    Host.Outcome State Fault Refusal :=
  deliver (recordX 31#6 727#10 rt ra rb rc) s

/-- R372 `stfdux` (store floating-point double with update indexed): format X. -/
def execStfdux (rt ra rb : RegIndex) (rc : Bool) (s : State) :
    Host.Outcome State Fault Refusal :=
  deliver (recordX 31#6 759#10 rt ra rb rc) s

/-- R373 `lhbrx` (load halfword byte-reverse indexed): format X. -/
def execLhbrx (rt ra rb : RegIndex) (rc : Bool) (s : State) :
    Host.Outcome State Fault Refusal :=
  deliver (recordX 31#6 790#10 rt ra rb rc) s

/-- R374 `sraw` (shift right algebraic word): format X. -/
def execSraw (rt ra rb : RegIndex) (rc : Bool) (s : State) :
    Host.Outcome State Fault Refusal :=
  deliver (recordX 31#6 792#10 rt ra rb rc) s

/-- R375 `srawi` (shift right algebraic word immediate): format X. -/
def execSrawi (rt ra rb : RegIndex) (rc : Bool) (s : State) :
    Host.Outcome State Fault Refusal :=
  deliver (recordX 31#6 824#10 rt ra rb rc) s

/-- R376 `eieio` (enforce in-order execution of I/O): format X. -/
def execEieio (rt ra rb : RegIndex) (rc : Bool) (s : State) :
    Host.Outcome State Fault Refusal :=
  deliver (recordX 31#6 854#10 rt ra rb rc) s

/-- R377 `sthbrx` (store halfword byte-reverse indexed): format X. -/
def execSthbrx (rt ra rb : RegIndex) (rc : Bool) (s : State) :
    Host.Outcome State Fault Refusal :=
  deliver (recordX 31#6 918#10 rt ra rb rc) s

/-- R378 `extsh` (extend sign halfword): format X. -/
def execExtsh (rt ra rb : RegIndex) (rc : Bool) (s : State) :
    Host.Outcome State Fault Refusal :=
  deliver (recordX 31#6 922#10 rt ra rb rc) s

/-- R379 `extsb` (extend sign byte): format X. -/
def execExtsb (rt ra rb : RegIndex) (rc : Bool) (s : State) :
    Host.Outcome State Fault Refusal :=
  deliver (recordX 31#6 954#10 rt ra rb rc) s

/-- R380 `icbi` (instruction cache block invalidate): format X. -/
def execIcbi (rt ra rb : RegIndex) (rc : Bool) (s : State) :
    Host.Outcome State Fault Refusal :=
  deliver (recordX 31#6 982#10 rt ra rb rc) s

/-- R381 `stfiwx` (store floating-point as integer word indexed): format X. -/
def execStfiwx (rt ra rb : RegIndex) (rc : Bool) (s : State) :
    Host.Outcome State Fault Refusal :=
  deliver (recordX 31#6 983#10 rt ra rb rc) s

/-- R382 `dcbz` (data cache block set to zero): format X. -/
def execDcbz (rt ra rb : RegIndex) (rc : Bool) (s : State) :
    Host.Outcome State Fault Refusal :=
  deliver (recordX 31#6 1014#10 rt ra rb rc) s

end Sys2Proof.Machine
end

