-- ==== Sys2Proof/Machine/XfxForm.lean ====
section
/-! DEFINITION. The meanings of the instructions of table XFX, primary opcode 31 (45_decode_xfx_a_tables.md, R400 to R404). The block classifies an
instruction word and executes nothing (00_scope.md R4): an instruction's meaning is that the decoder answers
with its record, and that nothing else of the machine changes (R140, R163 (e)). -/

namespace Sys2Proof.Machine

/-- R400 `mfcr` (move from condition register): format XFX. -/
def execMfcr (rt : RegIndex) (spr : BitVec 10) (rc : Bool) (s : State) :
    Host.Outcome State Fault Refusal :=
  deliver (recordXfx 31#6 19#10 rt spr rc) s

/-- R401 `mtcrf` (move to condition register fields): format XFX. -/
def execMtcrf (rt : RegIndex) (spr : BitVec 10) (rc : Bool) (s : State) :
    Host.Outcome State Fault Refusal :=
  deliver (recordXfx 31#6 144#10 rt spr rc) s

/-- R402 `mfspr` (move from special-purpose register): format XFX. -/
def execMfspr (rt : RegIndex) (spr : BitVec 10) (rc : Bool) (s : State) :
    Host.Outcome State Fault Refusal :=
  deliver (recordXfx 31#6 339#10 rt spr rc) s

/-- R403 `mftb` (move from time base): format XFX. -/
def execMftb (rt : RegIndex) (spr : BitVec 10) (rc : Bool) (s : State) :
    Host.Outcome State Fault Refusal :=
  deliver (recordXfx 31#6 371#10 rt spr rc) s

/-- R404 `mtspr` (move to special-purpose register): format XFX. -/
def execMtspr (rt : RegIndex) (spr : BitVec 10) (rc : Bool) (s : State) :
    Host.Outcome State Fault Refusal :=
  deliver (recordXfx 31#6 467#10 rt spr rc) s

end Sys2Proof.Machine
end

