-- ==== Sys2Proof/Machine/XlForm.lean ====
section
/-! DEFINITION. The meanings of the instructions of table XL, primary opcode 19 (42_decode_xl_table.md, R260 to R272). The block classifies an
instruction word and executes nothing (00_scope.md R4): an instruction's meaning is that the decoder answers
with its record, and that nothing else of the machine changes (R140, R163 (e)). -/

namespace Sys2Proof.Machine

/-- R260 `mcrf` (move condition register field): format XL. -/
def execMcrf (bt ba bb : RegIndex) (lk : Bool) (s : State) :
    Host.Outcome State Fault Refusal :=
  deliver (recordXl 19#6 0#10 bt ba bb lk) s

/-- R261 `bclr` (branch conditional to link register): format XL. -/
def execBclr (bt ba bb : RegIndex) (lk : Bool) (s : State) :
    Host.Outcome State Fault Refusal :=
  deliver (recordXl 19#6 16#10 bt ba bb lk) s

/-- R262 `crnor` (condition register NOR): format XL. -/
def execCrnor (bt ba bb : RegIndex) (lk : Bool) (s : State) :
    Host.Outcome State Fault Refusal :=
  deliver (recordXl 19#6 33#10 bt ba bb lk) s

/-- R263 `rfi` (return from interrupt): format XL. -/
def execRfi (bt ba bb : RegIndex) (lk : Bool) (s : State) :
    Host.Outcome State Fault Refusal :=
  deliver (recordXl 19#6 50#10 bt ba bb lk) s

/-- R264 `crandc` (condition register AND with complement): format XL. -/
def execCrandc (bt ba bb : RegIndex) (lk : Bool) (s : State) :
    Host.Outcome State Fault Refusal :=
  deliver (recordXl 19#6 129#10 bt ba bb lk) s

/-- R265 `isync` (instruction synchronize): format XL. -/
def execIsync (bt ba bb : RegIndex) (lk : Bool) (s : State) :
    Host.Outcome State Fault Refusal :=
  deliver (recordXl 19#6 150#10 bt ba bb lk) s

/-- R266 `crxor` (condition register XOR): format XL. -/
def execCrxor (bt ba bb : RegIndex) (lk : Bool) (s : State) :
    Host.Outcome State Fault Refusal :=
  deliver (recordXl 19#6 193#10 bt ba bb lk) s

/-- R267 `crnand` (condition register NAND): format XL. -/
def execCrnand (bt ba bb : RegIndex) (lk : Bool) (s : State) :
    Host.Outcome State Fault Refusal :=
  deliver (recordXl 19#6 225#10 bt ba bb lk) s

/-- R268 `crand` (condition register AND): format XL. -/
def execCrand (bt ba bb : RegIndex) (lk : Bool) (s : State) :
    Host.Outcome State Fault Refusal :=
  deliver (recordXl 19#6 257#10 bt ba bb lk) s

/-- R269 `creqv` (condition register equivalent): format XL. -/
def execCreqv (bt ba bb : RegIndex) (lk : Bool) (s : State) :
    Host.Outcome State Fault Refusal :=
  deliver (recordXl 19#6 289#10 bt ba bb lk) s

/-- R270 `crorc` (condition register OR with complement): format XL. -/
def execCrorc (bt ba bb : RegIndex) (lk : Bool) (s : State) :
    Host.Outcome State Fault Refusal :=
  deliver (recordXl 19#6 417#10 bt ba bb lk) s

/-- R271 `cror` (condition register OR): format XL. -/
def execCror (bt ba bb : RegIndex) (lk : Bool) (s : State) :
    Host.Outcome State Fault Refusal :=
  deliver (recordXl 19#6 449#10 bt ba bb lk) s

/-- R272 `bcctr` (branch conditional to count register): format XL. -/
def execBcctr (bt ba bb : RegIndex) (lk : Bool) (s : State) :
    Host.Outcome State Fault Refusal :=
  deliver (recordXl 19#6 528#10 bt ba bb lk) s

end Sys2Proof.Machine
end

