-- ==== Sys2Proof/Machine/Dispatch.lean ====
section
/-! DEFINITION. One arm per instruction (one constructor per row of spec/opcode_table.json). -/

namespace Sys2Proof.Machine

/-- The meaning of one decoded instruction (the rule of each arm stands at its meaning). -/
def exec (i : Instr) (s : State) : Host.Outcome State Fault Refusal :=
  match i with
  -- table PRIMARY
  | .tdi rt ra imm => Sys2Proof.Machine.execTdi rt ra imm s
  | .twi rt ra imm => Sys2Proof.Machine.execTwi rt ra imm s
  | .mulli rt ra imm => Sys2Proof.Machine.execMulli rt ra imm s
  | .subfic rt ra imm => Sys2Proof.Machine.execSubfic rt ra imm s
  | .cmpli rt ra imm => Sys2Proof.Machine.execCmpli rt ra imm s
  | .cmpi rt ra imm => Sys2Proof.Machine.execCmpi rt ra imm s
  | .addic rt ra imm => Sys2Proof.Machine.execAddic rt ra imm s
  | .addicDot rt ra imm => Sys2Proof.Machine.execAddicDot rt ra imm s
  | .addi rt ra imm => Sys2Proof.Machine.execAddi rt ra imm s
  | .addis rt ra imm => Sys2Proof.Machine.execAddis rt ra imm s
  | .bc bt ba bd aa lk => Sys2Proof.Machine.execBc bt ba bd aa lk s
  | .sc low => Sys2Proof.Machine.execSc low s
  | .b li aa lk => Sys2Proof.Machine.execB li aa lk s
  | .rlwimi rt ra sh mb me rc => Sys2Proof.Machine.execRlwimi rt ra sh mb me rc s
  | .rlwinm rt ra sh mb me rc => Sys2Proof.Machine.execRlwinm rt ra sh mb me rc s
  | .rlwnm rt ra sh mb me rc => Sys2Proof.Machine.execRlwnm rt ra sh mb me rc s
  | .ori rt ra imm => Sys2Proof.Machine.execOri rt ra imm s
  | .oris rt ra imm => Sys2Proof.Machine.execOris rt ra imm s
  | .xori rt ra imm => Sys2Proof.Machine.execXori rt ra imm s
  | .xoris rt ra imm => Sys2Proof.Machine.execXoris rt ra imm s
  | .andiDot rt ra imm => Sys2Proof.Machine.execAndiDot rt ra imm s
  | .andisDot rt ra imm => Sys2Proof.Machine.execAndisDot rt ra imm s
  | .rldicl rt ra rb mid low => Sys2Proof.Machine.execRldicl rt ra rb mid low s
  | .rldicr rt ra rb mid low => Sys2Proof.Machine.execRldicr rt ra rb mid low s
  | .rldic rt ra rb mid low => Sys2Proof.Machine.execRldic rt ra rb mid low s
  | .rldimi rt ra rb mid low => Sys2Proof.Machine.execRldimi rt ra rb mid low s
  | .rldcl rt ra rb mid rc => Sys2Proof.Machine.execRldcl rt ra rb mid rc s
  | .rldcr rt ra rb mid rc => Sys2Proof.Machine.execRldcr rt ra rb mid rc s
  | .lwz rt ra imm => Sys2Proof.Machine.execLwz rt ra imm s
  | .lwzu rt ra imm => Sys2Proof.Machine.execLwzu rt ra imm s
  | .lbz rt ra imm => Sys2Proof.Machine.execLbz rt ra imm s
  | .lbzu rt ra imm => Sys2Proof.Machine.execLbzu rt ra imm s
  | .stw rt ra imm => Sys2Proof.Machine.execStw rt ra imm s
  | .stwu rt ra imm => Sys2Proof.Machine.execStwu rt ra imm s
  | .stb rt ra imm => Sys2Proof.Machine.execStb rt ra imm s
  | .stbu rt ra imm => Sys2Proof.Machine.execStbu rt ra imm s
  | .lhz rt ra imm => Sys2Proof.Machine.execLhz rt ra imm s
  | .lhzu rt ra imm => Sys2Proof.Machine.execLhzu rt ra imm s
  | .lha rt ra imm => Sys2Proof.Machine.execLha rt ra imm s
  | .lhau rt ra imm => Sys2Proof.Machine.execLhau rt ra imm s
  | .sth rt ra imm => Sys2Proof.Machine.execSth rt ra imm s
  | .sthu rt ra imm => Sys2Proof.Machine.execSthu rt ra imm s
  | .lmw rt ra imm => Sys2Proof.Machine.execLmw rt ra imm s
  | .stmw rt ra imm => Sys2Proof.Machine.execStmw rt ra imm s
  | .lfs rt ra imm => Sys2Proof.Machine.execLfs rt ra imm s
  | .lfsu rt ra imm => Sys2Proof.Machine.execLfsu rt ra imm s
  | .lfd rt ra imm => Sys2Proof.Machine.execLfd rt ra imm s
  | .lfdu rt ra imm => Sys2Proof.Machine.execLfdu rt ra imm s
  | .stfs rt ra imm => Sys2Proof.Machine.execStfs rt ra imm s
  | .stfsu rt ra imm => Sys2Proof.Machine.execStfsu rt ra imm s
  | .stfd rt ra imm => Sys2Proof.Machine.execStfd rt ra imm s
  | .stfdu rt ra imm => Sys2Proof.Machine.execStfdu rt ra imm s
  | .ld rt ra ds => Sys2Proof.Machine.execLd rt ra ds s
  | .ldu rt ra ds => Sys2Proof.Machine.execLdu rt ra ds s
  | .lwa rt ra ds => Sys2Proof.Machine.execLwa rt ra ds s
  | .std rt ra ds => Sys2Proof.Machine.execStd rt ra ds s
  | .stdu rt ra ds => Sys2Proof.Machine.execStdu rt ra ds s
  -- table XL
  | .mcrf bt ba bb lk => Sys2Proof.Machine.execMcrf bt ba bb lk s
  | .bclr bt ba bb lk => Sys2Proof.Machine.execBclr bt ba bb lk s
  | .crnor bt ba bb lk => Sys2Proof.Machine.execCrnor bt ba bb lk s
  | .rfi bt ba bb lk => Sys2Proof.Machine.execRfi bt ba bb lk s
  | .crandc bt ba bb lk => Sys2Proof.Machine.execCrandc bt ba bb lk s
  | .isync bt ba bb lk => Sys2Proof.Machine.execIsync bt ba bb lk s
  | .crxor bt ba bb lk => Sys2Proof.Machine.execCrxor bt ba bb lk s
  | .crnand bt ba bb lk => Sys2Proof.Machine.execCrnand bt ba bb lk s
  | .crand bt ba bb lk => Sys2Proof.Machine.execCrand bt ba bb lk s
  | .creqv bt ba bb lk => Sys2Proof.Machine.execCreqv bt ba bb lk s
  | .crorc bt ba bb lk => Sys2Proof.Machine.execCrorc bt ba bb lk s
  | .cror bt ba bb lk => Sys2Proof.Machine.execCror bt ba bb lk s
  | .bcctr bt ba bb lk => Sys2Proof.Machine.execBcctr bt ba bb lk s
  -- table X
  | .cmp rt ra rb rc => Sys2Proof.Machine.execCmp rt ra rb rc s
  | .tw rt ra rb rc => Sys2Proof.Machine.execTw rt ra rb rc s
  | .subfc rt ra rb oe rc => Sys2Proof.Machine.execSubfc rt ra rb oe rc s
  | .addc rt ra rb oe rc => Sys2Proof.Machine.execAddc rt ra rb oe rc s
  | .mulhwu rt ra rb rc => Sys2Proof.Machine.execMulhwu rt ra rb rc s
  | .lwarx rt ra rb rc => Sys2Proof.Machine.execLwarx rt ra rb rc s
  | .lwzx rt ra rb rc => Sys2Proof.Machine.execLwzx rt ra rb rc s
  | .slw rt ra rb rc => Sys2Proof.Machine.execSlw rt ra rb rc s
  | .cntlzw rt ra rb rc => Sys2Proof.Machine.execCntlzw rt ra rb rc s
  | .and rt ra rb rc => Sys2Proof.Machine.execAnd rt ra rb rc s
  | .cmpl rt ra rb rc => Sys2Proof.Machine.execCmpl rt ra rb rc s
  | .subf rt ra rb oe rc => Sys2Proof.Machine.execSubf rt ra rb oe rc s
  | .dcbst rt ra rb rc => Sys2Proof.Machine.execDcbst rt ra rb rc s
  | .lwzux rt ra rb rc => Sys2Proof.Machine.execLwzux rt ra rb rc s
  | .andc rt ra rb rc => Sys2Proof.Machine.execAndc rt ra rb rc s
  | .mulhw rt ra rb rc => Sys2Proof.Machine.execMulhw rt ra rb rc s
  | .mfmsr rt ra rb rc => Sys2Proof.Machine.execMfmsr rt ra rb rc s
  | .dcbf rt ra rb rc => Sys2Proof.Machine.execDcbf rt ra rb rc s
  | .lbzx rt ra rb rc => Sys2Proof.Machine.execLbzx rt ra rb rc s
  | .neg rt ra rb oe rc => Sys2Proof.Machine.execNeg rt ra rb oe rc s
  | .lbzux rt ra rb rc => Sys2Proof.Machine.execLbzux rt ra rb rc s
  | .nor rt ra rb rc => Sys2Proof.Machine.execNor rt ra rb rc s
  | .subfe rt ra rb oe rc => Sys2Proof.Machine.execSubfe rt ra rb oe rc s
  | .adde rt ra rb oe rc => Sys2Proof.Machine.execAdde rt ra rb oe rc s
  | .mtmsr rt ra rb rc => Sys2Proof.Machine.execMtmsr rt ra rb rc s
  | .stwcxDot rt ra rb rc => Sys2Proof.Machine.execStwcxDot rt ra rb rc s
  | .stwx rt ra rb rc => Sys2Proof.Machine.execStwx rt ra rb rc s
  | .stwux rt ra rb rc => Sys2Proof.Machine.execStwux rt ra rb rc s
  | .subfze rt ra rb oe rc => Sys2Proof.Machine.execSubfze rt ra rb oe rc s
  | .addze rt ra rb oe rc => Sys2Proof.Machine.execAddze rt ra rb oe rc s
  | .mtsr rt ra rb rc => Sys2Proof.Machine.execMtsr rt ra rb rc s
  | .stbx rt ra rb rc => Sys2Proof.Machine.execStbx rt ra rb rc s
  | .subfme rt ra rb oe rc => Sys2Proof.Machine.execSubfme rt ra rb oe rc s
  | .addme rt ra rb oe rc => Sys2Proof.Machine.execAddme rt ra rb oe rc s
  | .mullw rt ra rb oe rc => Sys2Proof.Machine.execMullw rt ra rb oe rc s
  | .mtsrin rt ra rb rc => Sys2Proof.Machine.execMtsrin rt ra rb rc s
  | .dcbtst rt ra rb rc => Sys2Proof.Machine.execDcbtst rt ra rb rc s
  | .stbux rt ra rb rc => Sys2Proof.Machine.execStbux rt ra rb rc s
  | .add rt ra rb oe rc => Sys2Proof.Machine.execAdd rt ra rb oe rc s
  | .dcbt rt ra rb rc => Sys2Proof.Machine.execDcbt rt ra rb rc s
  | .lhzx rt ra rb rc => Sys2Proof.Machine.execLhzx rt ra rb rc s
  | .eqv rt ra rb rc => Sys2Proof.Machine.execEqv rt ra rb rc s
  | .tlbie rt ra rb rc => Sys2Proof.Machine.execTlbie rt ra rb rc s
  | .eciwx rt ra rb rc => Sys2Proof.Machine.execEciwx rt ra rb rc s
  | .lhzux rt ra rb rc => Sys2Proof.Machine.execLhzux rt ra rb rc s
  | .xor rt ra rb rc => Sys2Proof.Machine.execXor rt ra rb rc s
  | .lhax rt ra rb rc => Sys2Proof.Machine.execLhax rt ra rb rc s
  | .lhaux rt ra rb rc => Sys2Proof.Machine.execLhaux rt ra rb rc s
  | .sthx rt ra rb rc => Sys2Proof.Machine.execSthx rt ra rb rc s
  | .orc rt ra rb rc => Sys2Proof.Machine.execOrc rt ra rb rc s
  | .ecowx rt ra rb rc => Sys2Proof.Machine.execEcowx rt ra rb rc s
  | .sthux rt ra rb rc => Sys2Proof.Machine.execSthux rt ra rb rc s
  | .or rt ra rb rc => Sys2Proof.Machine.execOr rt ra rb rc s
  | .divwu rt ra rb oe rc => Sys2Proof.Machine.execDivwu rt ra rb oe rc s
  | .dcbi rt ra rb rc => Sys2Proof.Machine.execDcbi rt ra rb rc s
  | .nand rt ra rb rc => Sys2Proof.Machine.execNand rt ra rb rc s
  | .divw rt ra rb oe rc => Sys2Proof.Machine.execDivw rt ra rb oe rc s
  | .mcrxr rt ra rb rc => Sys2Proof.Machine.execMcrxr rt ra rb rc s
  | .lswx rt ra rb rc => Sys2Proof.Machine.execLswx rt ra rb rc s
  | .lwbrx rt ra rb rc => Sys2Proof.Machine.execLwbrx rt ra rb rc s
  | .lfsx rt ra rb rc => Sys2Proof.Machine.execLfsx rt ra rb rc s
  | .srw rt ra rb rc => Sys2Proof.Machine.execSrw rt ra rb rc s
  | .tlbsync rt ra rb rc => Sys2Proof.Machine.execTlbsync rt ra rb rc s
  | .lfsux rt ra rb rc => Sys2Proof.Machine.execLfsux rt ra rb rc s
  | .mfsr rt ra rb rc => Sys2Proof.Machine.execMfsr rt ra rb rc s
  | .lswi rt ra rb rc => Sys2Proof.Machine.execLswi rt ra rb rc s
  | .sync rt ra rb rc => Sys2Proof.Machine.execSync rt ra rb rc s
  | .lfdx rt ra rb rc => Sys2Proof.Machine.execLfdx rt ra rb rc s
  | .lfdux rt ra rb rc => Sys2Proof.Machine.execLfdux rt ra rb rc s
  | .mfsrin rt ra rb rc => Sys2Proof.Machine.execMfsrin rt ra rb rc s
  | .stswx rt ra rb rc => Sys2Proof.Machine.execStswx rt ra rb rc s
  | .stwbrx rt ra rb rc => Sys2Proof.Machine.execStwbrx rt ra rb rc s
  | .stfsx rt ra rb rc => Sys2Proof.Machine.execStfsx rt ra rb rc s
  | .stfsux rt ra rb rc => Sys2Proof.Machine.execStfsux rt ra rb rc s
  | .stswi rt ra rb rc => Sys2Proof.Machine.execStswi rt ra rb rc s
  | .stfdx rt ra rb rc => Sys2Proof.Machine.execStfdx rt ra rb rc s
  | .stfdux rt ra rb rc => Sys2Proof.Machine.execStfdux rt ra rb rc s
  | .lhbrx rt ra rb rc => Sys2Proof.Machine.execLhbrx rt ra rb rc s
  | .sraw rt ra rb rc => Sys2Proof.Machine.execSraw rt ra rb rc s
  | .srawi rt ra rb rc => Sys2Proof.Machine.execSrawi rt ra rb rc s
  | .eieio rt ra rb rc => Sys2Proof.Machine.execEieio rt ra rb rc s
  | .sthbrx rt ra rb rc => Sys2Proof.Machine.execSthbrx rt ra rb rc s
  | .extsh rt ra rb rc => Sys2Proof.Machine.execExtsh rt ra rb rc s
  | .extsb rt ra rb rc => Sys2Proof.Machine.execExtsb rt ra rb rc s
  | .icbi rt ra rb rc => Sys2Proof.Machine.execIcbi rt ra rb rc s
  | .stfiwx rt ra rb rc => Sys2Proof.Machine.execStfiwx rt ra rb rc s
  | .dcbz rt ra rb rc => Sys2Proof.Machine.execDcbz rt ra rb rc s
  -- table XFX
  | .mfcr rt spr rc => Sys2Proof.Machine.execMfcr rt spr rc s
  | .mtcrf rt spr rc => Sys2Proof.Machine.execMtcrf rt spr rc s
  | .mfspr rt spr rc => Sys2Proof.Machine.execMfspr rt spr rc s
  | .mftb rt spr rc => Sys2Proof.Machine.execMftb rt spr rc s
  | .mtspr rt spr rc => Sys2Proof.Machine.execMtspr rt spr rc s
  -- table A
  | .fdivs frt fra frb frc rc => Sys2Proof.Machine.execFdivs frt fra frb frc rc s
  | .fsubs frt fra frb frc rc => Sys2Proof.Machine.execFsubs frt fra frb frc rc s
  | .fadds frt fra frb frc rc => Sys2Proof.Machine.execFadds frt fra frb frc rc s
  | .fsqrts frt fra frb frc rc => Sys2Proof.Machine.execFsqrts frt fra frb frc rc s
  | .fres frt fra frb frc rc => Sys2Proof.Machine.execFres frt fra frb frc rc s
  | .fmuls frt fra frb frc rc => Sys2Proof.Machine.execFmuls frt fra frb frc rc s
  | .fmsubs frt fra frb frc rc => Sys2Proof.Machine.execFmsubs frt fra frb frc rc s
  | .fmadds frt fra frb frc rc => Sys2Proof.Machine.execFmadds frt fra frb frc rc s
  | .fnmsubs frt fra frb frc rc => Sys2Proof.Machine.execFnmsubs frt fra frb frc rc s
  | .fnmadds frt fra frb frc rc => Sys2Proof.Machine.execFnmadds frt fra frb frc rc s
  | .fdiv frt fra frb frc rc => Sys2Proof.Machine.execFdiv frt fra frb frc rc s
  | .fsub frt fra frb frc rc => Sys2Proof.Machine.execFsub frt fra frb frc rc s
  | .fadd frt fra frb frc rc => Sys2Proof.Machine.execFadd frt fra frb frc rc s
  | .fsqrt frt fra frb frc rc => Sys2Proof.Machine.execFsqrt frt fra frb frc rc s
  | .fsel frt fra frb frc rc => Sys2Proof.Machine.execFsel frt fra frb frc rc s
  | .fmul frt fra frb frc rc => Sys2Proof.Machine.execFmul frt fra frb frc rc s
  | .frsqrte frt fra frb frc rc => Sys2Proof.Machine.execFrsqrte frt fra frb frc rc s
  | .fmsub frt fra frb frc rc => Sys2Proof.Machine.execFmsub frt fra frb frc rc s
  | .fmadd frt fra frb frc rc => Sys2Proof.Machine.execFmadd frt fra frb frc rc s
  | .fnmsub frt fra frb frc rc => Sys2Proof.Machine.execFnmsub frt fra frb frc rc s
  | .fnmadd frt fra frb frc rc => Sys2Proof.Machine.execFnmadd frt fra frb frc rc s

end Sys2Proof.Machine
end

