-- ==== Sys2Proof/Machine/Lifecycle.lean ====
section
/-! DEFINITION. `init` and `destroy` (70_reset_and_hazards.md R700, R701), for any address width. -/

namespace Sys2Proof.Machine

variable {aw : Nat}

/-- The address of page `n`, `n << 12`. -/
def pageAddress (aw n : Nat) : BitVec aw := BitVec.ofNat aw (n <<< Config.pageShift)

/-- The seeding loop of R700: pages 0 to 15 inserted as identity mappings into an array of invalid entries. -/
def seedLoop (aw : Nat) (flags : BitVec 3) : Tlb aw :=
  (List.range Config.seedCount).foldl (fun t n => tlbInsert t (pageAddress aw n) (pageAddress aw n) flags)
    (Vector.replicate Config.tlbSize (TlbEntry.invalid aw))

/-- `init(sizeBytes)` of R700: everything the instance held before is forgotten (decision D28). -/
def initInstance (sizeBytes : BitVec aw) : MemorySystem aw :=
  { ramSize := sizeBytes.toNat
    ram := []
    itlb := seedLoop aw instructionSeedFlags
    dtlb := seedLoop aw dataSeedFlags
    tlbHits := 0
    tlbMisses := 0
    life := .live }

/-- The `init` whose allocation fails (60_exceptions.md R607): "no RAM buffer exists afterward", `life = Uninit`. -/
def initAllocationFails : MemorySystem aw := MemorySystem.uninit aw

/-- `destroy()` of R701. -/
def destroyInstance (m : MemorySystem aw) : MemorySystem aw := { m with life := .destroyed }

end Sys2Proof.Machine
end

