-- ==== Sys2Proof/Machine/Ports.lean ====
section
/-! DEFINITION. The operation ports (10_state.md R40 to R45): one request of the host, performed to completion. -/

namespace Sys2Proof.Machine

/-- The memory port and the counter port (R42, R43). Every operation but `init` needs `life = Live` (R31). -/
def MemorySystem.perform {aw : Nat} (op : MemOp aw) (m : MemorySystem aw) :
    Except Refusal (MemResult aw × MemorySystem aw) :=
  match op with
  | .init size => .ok (.done, initInstance size)
  | .initAllocationFailure _ => .ok (.allocationFailure, initAllocationFails)
  | .destroy => whenLive m (.done, destroyInstance m)
  | .translate v f => whenLive m (.paddr (Machine.translate v f m).1, (Machine.translate v f m).2)
  | .flush => whenLive m (.done, flushTlbs m)
  | .read8 v => whenLive m (.value8 (Machine.read8 v m).1, (Machine.read8 v m).2)
  | .read16 v => whenLive m (.value16 (Machine.read16 v m).1, (Machine.read16 v m).2)
  | .read32 v => whenLive m (.value32 (Machine.read32 v m).1, (Machine.read32 v m).2)
  | .read64 v => whenLive m (.value64 (Machine.read64 v m).1, (Machine.read64 v m).2)
  | .write8 v x => whenLive m (.done, Machine.write8 v x m)
  | .write16 v x => whenLive m (.done, Machine.write16 v x m)
  | .write32 v x => whenLive m (.done, Machine.write32 v x m)
  | .write64 v x => whenLive m (.done, Machine.write64 v x m)
  | .readTlbHits => whenLive m (.count m.tlbHits, m)
  | .readTlbMisses => whenLive m (.count m.tlbMisses, m)

/-- A request on the memory or counter port. -/
def serveMem (op : MemOp Config.addressWidth) (s : State) : Host.Outcome State Fault Refusal :=
  match s.mem.perform op with
  | .ok (r, m) => .next (State.respond (.mem r) { s with mem := m })
  | .error e => .refused e

/-- A request on the `decode` port (R40): the instruction the word stands for is classified; a word that stands for
none gives the record UNKNOWN, which is no error (R129, R601). -/
def serveDecode (raw : Word) (s : State) : Host.Outcome State Fault Refusal :=
  match decodeWord raw with
  | some i => exec i s
  | none => deliver (recordUnknown raw) s

/-- A request on the `instructionName` port (R41, R161). -/
def serveName (d : DecodedInstruction) (s : State) : Host.Outcome State Fault Refusal :=
  .next (s.respond (.name (instructionName defaultTables d)))

/-- One request. Overlapping operations on the one instance are refused (R45). -/
def serve (r : Request) (s : State) : Host.Outcome State Fault Refusal :=
  match r with
  | .decode raw => serveDecode raw s
  | .instructionName d => serveName d s
  | .mem op => serveMem op s
  | .overlapping _ _ => .refused .overlappingOperations

end Sys2Proof.Machine
end

