-- ==== Sys2Proof/Machine/Step.lean ====
section
/-! DEFINITION. One step: the next operation of the host, performed as one atomic step (00_scope.md R10, R45). -/

namespace Sys2Proof.Machine

/-- The oldest waiting request is taken and served. With none waiting the block does nothing (log entry 5). -/
def step (s : State) : Host.Outcome State Fault Refusal :=
  match s.requests with
  | [] => .next s
  | r :: rest => serve r { s with requests := rest }

/-- The machine handed the word `w` of `nbits` bits (the bits above are zero) as its very next `decode` request:
the block holds no program counter and fetches nothing itself, its host hands it each word (R22, R60, log entry 6). -/
def State.withFetchWord (s : State) (nbits w : Nat) : State :=
  { s with requests := .decode (BitVec.ofNat 32 (w % 2 ^ nbits)) :: s.requests }

end Sys2Proof.Machine
end

