-- ==== Sys2Proof/Safety.lean ====
section
/-! DEFINITION. The terms the claims are stated in: the invariants of the state (10_state.md R32), the life
discipline of a history of operations (R31), and what a history says by itself, without the state of the machine:
which byte was written last, which page was translated last, how many translations there were. -/

namespace Sys2Proof.Machine

variable {aw : Nat}

/-! ## Invariants of the state -/

/-- R32 (a), (b), (c) on the entry at one index: if it is valid, its tag and its base are page-aligned, its tag
belongs at this index, and it maps its page to itself. -/
def TlbEntry.Ok (i : Fin Config.tlbSize) (e : TlbEntry aw) : Prop :=
  e.valid = true →
    pageOffset e.vaddrTag = 0 ∧ pageOffset e.paddrBase = 0 ∧ tlbIndex e.vaddrTag = i ∧ e.paddrBase = e.vaddrTag

/-- R32 on every entry of a TLB. -/
def TlbOk (t : Tlb aw) : Prop := ∀ i : Fin Config.tlbSize, (t.get i).Ok i

/-- The invariant of the memory system: R32 on both TLBs, RAM in canonical form and only below RAM_SIZE (R30),
and RAM_SIZE below 2^AW (R700). -/
structure MemorySystem.Inv (m : MemorySystem aw) : Prop where
  itlbOk : TlbOk m.itlb
  dtlbOk : TlbOk m.dtlb
  ramCanonical : Memory.wf m.ram = true
  ramBelow : Memory.below m.ramSize m.ram = true
  sizeBelow : m.ramSize < 2 ^ aw

/-- The invariant of the machine. -/
def State.Inv (s : State) : Prop := s.mem.Inv

/-! ## Histories of operations (00_scope.md R12) -/

/-- The operations performed one after the other, each to completion (R45): their results in order. -/
def MemorySystem.performAll : List (MemOp aw) → MemorySystem aw → Except Refusal (List (MemResult aw) × MemorySystem aw)
  | [], m => .ok ([], m)
  | op :: rest, m =>
    match m.perform op with
    | .error e => .error e
    | .ok (r, m') =>
      match MemorySystem.performAll rest m' with
      | .error e => .error e
      | .ok (rs, m'') => .ok (r :: rs, m'')

/-- The operations that begin or end the life of an instance. -/
def changesLife : MemOp aw → Bool
  | .init _ | .initAllocationFailure _ | .destroy => true
  | .translate .. | .flush | .read8 _ | .read16 _ | .read32 _ | .read64 _ | .write8 .. | .write16 ..
  | .write32 .. | .write64 .. | .readTlbHits | .readTlbMisses => false

/-- The operations that perform one translation, with its address and the TLB it uses (R502, R530). -/
def translationOf : MemOp aw → Option (BitVec aw × Bool)
  | .translate v f => some (v, f)
  | .read8 v | .read16 v | .read32 v | .read64 v => some (v, false)
  | .write8 v _ | .write16 v _ | .write32 v _ | .write64 v _ => some (v, false)
  | .init _ | .initAllocationFailure _ | .destroy | .flush | .readTlbHits | .readTlbMisses => none

/-- The life after an operation that is permitted in the life before it, and none where the spec gives the operation
no meaning (R31, R607, R701). -/
def lifeAfter (op : MemOp aw) (l : Life) : Option Life :=
  match op, l with
  | .init _, _ => some .live
  | .initAllocationFailure _, _ => some .uninit
  | .destroy, .live => some .destroyed
  | .translate .., .live | .flush, .live | .read8 _, .live | .read16 _, .live | .read32 _, .live | .read64 _, .live
  | .write8 .., .live | .write16 .., .live | .write32 .., .live | .write64 .., .live
  | .readTlbHits, .live | .readTlbMisses, .live => some .live
  | .destroy, _ | .translate .., _ | .flush, _ | .read8 _, _ | .read16 _, _ | .read32 _, _ | .read64 _, _
  | .write8 .., _ | .write16 .., _ | .write32 .., _ | .write64 .., _ | .readTlbHits, _ | .readTlbMisses, _ => none

/-- A safe run: every request has a meaning when its turn comes (R710 (a), R31, R45). Decoder requests always have. -/
def Admissible : Life → List Request → Prop
  | _, [] => True
  | l, .decode _ :: rest => Admissible l rest
  | l, .instructionName _ :: rest => Admissible l rest
  | l, .mem op :: rest => ∃ l', lifeAfter op l = some l' ∧ Admissible l' rest
  | _, .overlapping _ _ :: _ => False

/-- The bytes of a value stored at `v` that lie within bounds as one access (R530 (d)): the byte at offset `a`. -/
def storedAt (n : Nat) (v : BitVec aw) (x : BitVec (8 * n)) (size a : Nat) : Option Byte :=
  if v.toNat + n - 1 < size ∧ v.toNat ≤ a ∧ a < v.toNat + n then
    some (x.extractLsb' (8 * (n - 1 - (a - v.toNat))) 8)
  else none

/-- The byte an operation writes at offset `a` of a RAM of `size` bytes, if it writes one (R535 to R538, R63). -/
def storedByte (size a : Nat) : MemOp aw → Option Byte
  | .write8 v x => storedAt 1 v x size a
  | .write16 v x => storedAt 2 v x size a
  | .write32 v x => storedAt 4 v x size a
  | .write64 v x => storedAt 8 v x size a
  | .init _ | .initAllocationFailure _ | .destroy | .translate .. | .flush | .read8 _ | .read16 _ | .read32 _
  | .read64 _ | .readTlbHits | .readTlbMisses => none

/-- R72: the most recent in-bounds write that covered the byte, or 0 if there is none since `init`. -/
def lastWritten (size : Nat) (ops : List (MemOp aw)) (a : Nat) : Byte :=
  (ops.reverse.findSome? (storedByte size a)).getD 0

/-- The page resident at an index of a TLB after a history, given the page before it: the last page translated there
since the last flush (46_tlb_ops.md R507). -/
def residentPage (isInstructionFetch : Bool) (i : Fin Config.tlbSize) :
    Option (BitVec aw) → List (MemOp aw) → Option (BitVec aw)
  | page, [] => page
  | page, op :: rest =>
    if op = .flush then residentPage isInstructionFetch i none rest
    else
      match translationOf op with
      | some (v, f) =>
        if f = isInstructionFetch ∧ tlbIndex v = i then residentPage isInstructionFetch i (some (pageBase v)) rest
        else residentPage isInstructionFetch i page rest
      | none => residentPage isInstructionFetch i page rest

/-- The page resident at an index right after `init`: seed `i` for the first 16 (R35). -/
def seededPage (i : Fin Config.tlbSize) : Option (BitVec aw) :=
  if i.val < Config.seedCount then some (BitVec.ofNat aw (i.val <<< Config.pageShift)) else none

/-! ## What the host can tell apart -/

/-- Two memory systems that hold the same data: the life, RAM_SIZE and RAM, whatever their TLBs and counters are. -/
def SameData (m m' : MemorySystem aw) : Prop := m.life = m'.life ∧ m.ramSize = m'.ramSize ∧ m.ram = m'.ram

/-- A TLB entry without its permission flags. -/
def TlbEntry.withoutFlags (e : TlbEntry aw) : TlbEntry aw := { e with permissionFlags := 0 }

/-- A memory system without its permission flags. -/
def MemorySystem.withoutFlags (m : MemorySystem aw) : MemorySystem aw :=
  { m with itlb := m.itlb.map TlbEntry.withoutFlags, dtlb := m.dtlb.map TlbEntry.withoutFlags }

/-- The reads of the counter port, the only operations whose result is about the TLBs (R33). -/
def readsCounter : MemOp aw → Bool
  | .readTlbHits | .readTlbMisses => true
  | .init _ | .initAllocationFailure _ | .destroy | .translate .. | .flush | .read8 _ | .read16 _ | .read32 _
  | .read64 _ | .write8 .. | .write16 .. | .write32 .. | .write64 .. => false

end Sys2Proof.Machine
end

