-- ==== Sys2Proof/Certificates/Slice0/Obligations.lean ====
section
/-! DEFINITION. The statements of this row for the provers. Those about the decoder's mechanism hold for any
`Tables`; those about the memory system for any address width, or for both widths the spec allows (00_scope.md R6).
A statement whose docstring names a log entry rests on that choice of the model. -/

namespace Sys2Proof.Machine

/-! ## The instructions by format -/

/-- The instructions of format D, each with the primary opcode (30_encoding.md R123). -/
def instructionsD : List ((RegIndex → RegIndex → BitVec 16 → Instr) × BitVec 6) :=
  [(Instr.tdi, 2), (Instr.twi, 3), (Instr.mulli, 7), (Instr.subfic, 8), (Instr.cmpli, 10), (Instr.cmpi, 11),
    (Instr.addic, 12), (Instr.addicDot, 13), (Instr.addi, 14), (Instr.addis, 15), (Instr.ori, 24),
    (Instr.oris, 25), (Instr.xori, 26), (Instr.xoris, 27), (Instr.andiDot, 28), (Instr.andisDot, 29),
    (Instr.lwz, 32), (Instr.lwzu, 33), (Instr.lbz, 34), (Instr.lbzu, 35)] ++
  [(Instr.stw, 36), (Instr.stwu, 37), (Instr.stb, 38), (Instr.stbu, 39), (Instr.lhz, 40), (Instr.lhzu, 41),
    (Instr.lha, 42), (Instr.lhau, 43), (Instr.sth, 44), (Instr.sthu, 45), (Instr.lmw, 46), (Instr.stmw, 47),
    (Instr.lfs, 48), (Instr.lfsu, 49), (Instr.lfd, 50), (Instr.lfdu, 51), (Instr.stfs, 52), (Instr.stfsu, 53),
    (Instr.stfd, 54), (Instr.stfdu, 55)]

/-- The instructions of format M, each with the primary opcode (R123). -/
def instructionsM : List ((RegIndex → RegIndex → RegIndex → RegIndex → RegIndex → Bool → Instr) × BitVec 6) :=
  [(Instr.rlwimi, 20), (Instr.rlwinm, 21), (Instr.rlwnm, 23)]

/-- The instructions of format MD, each with bits 4:2 of the word (R123, opcode 30). -/
def instructionsMd : List ((RegIndex → RegIndex → RegIndex → BitVec 6 → BitVec 2 → Instr) × BitVec 3) :=
  [(Instr.rldicl, 0), (Instr.rldicr, 1), (Instr.rldic, 2), (Instr.rldimi, 3)]

/-- The instructions of format MDS, each with bits 4:1 of the word (R123, opcode 30). -/
def instructionsMds : List ((RegIndex → RegIndex → RegIndex → BitVec 6 → Bool → Instr) × BitVec 4) :=
  [(Instr.rldcl, 8), (Instr.rldcr, 9)]

/-- The instructions of format DS, each with the primary opcode and bits 1:0 of the word (R123). -/
def instructionsDs : List ((RegIndex → RegIndex → BitVec 14 → Instr) × BitVec 6 × BitVec 2) :=
  [(Instr.ld, 58, 0), (Instr.ldu, 58, 1), (Instr.lwa, 58, 2), (Instr.std, 62, 0), (Instr.stdu, 62, 1)]

/-- The instructions of format XL, each with bits 10:1 of the word (R125, opcode 19). -/
def instructionsXl : List ((RegIndex → RegIndex → RegIndex → Bool → Instr) × BitVec 10) :=
  [(Instr.mcrf, 0), (Instr.bclr, 16), (Instr.crnor, 33), (Instr.rfi, 50), (Instr.crandc, 129),
    (Instr.isync, 150), (Instr.crxor, 193), (Instr.crnand, 225), (Instr.crand, 257), (Instr.creqv, 289),
    (Instr.crorc, 417), (Instr.cror, 449), (Instr.bcctr, 528)]

/-- The instructions of format X, each with bits 10:1 of the word (R124, opcode 31, the entries not marked +OE). -/
def instructionsX : List ((RegIndex → RegIndex → RegIndex → Bool → Instr) × BitVec 10) :=
  [(Instr.cmp, 0), (Instr.tw, 4), (Instr.mulhwu, 11), (Instr.lwarx, 20), (Instr.lwzx, 23), (Instr.slw, 24),
    (Instr.cntlzw, 26), (Instr.and, 28), (Instr.cmpl, 32), (Instr.dcbst, 54), (Instr.lwzux, 55),
    (Instr.andc, 60), (Instr.mulhw, 75), (Instr.mfmsr, 83), (Instr.dcbf, 86), (Instr.lbzx, 87),
    (Instr.lbzux, 119), (Instr.nor, 124), (Instr.mtmsr, 146), (Instr.stwcxDot, 150)] ++
  [(Instr.stwx, 151), (Instr.stwux, 183), (Instr.mtsr, 210), (Instr.stbx, 215), (Instr.mtsrin, 242),
    (Instr.dcbtst, 246), (Instr.stbux, 247), (Instr.dcbt, 278), (Instr.lhzx, 279), (Instr.eqv, 284),
    (Instr.tlbie, 306), (Instr.eciwx, 310), (Instr.lhzux, 311), (Instr.xor, 316), (Instr.lhax, 343),
    (Instr.lhaux, 375), (Instr.sthx, 407), (Instr.orc, 412), (Instr.ecowx, 438), (Instr.sthux, 439)] ++
  [(Instr.or, 444), (Instr.dcbi, 470), (Instr.nand, 476), (Instr.mcrxr, 512), (Instr.lswx, 533),
    (Instr.lwbrx, 534), (Instr.lfsx, 535), (Instr.srw, 536), (Instr.tlbsync, 566), (Instr.lfsux, 567),
    (Instr.mfsr, 595), (Instr.lswi, 597), (Instr.sync, 598), (Instr.lfdx, 599), (Instr.lfdux, 631),
    (Instr.mfsrin, 659), (Instr.stswx, 661), (Instr.stwbrx, 662), (Instr.stfsx, 663), (Instr.stfsux, 695)] ++
  [(Instr.stswi, 725), (Instr.stfdx, 727), (Instr.stfdux, 759), (Instr.lhbrx, 790), (Instr.sraw, 792),
    (Instr.srawi, 824), (Instr.eieio, 854), (Instr.sthbrx, 918), (Instr.extsh, 922), (Instr.extsb, 954),
    (Instr.icbi, 982), (Instr.stfiwx, 983), (Instr.dcbz, 1014)]

/-- The instructions of format X whose entry leaves bit 10 free, each with bits 9:1 of the word (R124, opcode 31, the fourteen entries marked +OE). -/
def instructionsXo : List ((RegIndex → RegIndex → RegIndex → Bool → Bool → Instr) × BitVec 9) :=
  [(Instr.subfc, 8), (Instr.addc, 10), (Instr.subf, 40), (Instr.neg, 104), (Instr.subfe, 136),
    (Instr.adde, 138), (Instr.subfze, 200), (Instr.addze, 202), (Instr.subfme, 232), (Instr.addme, 234),
    (Instr.mullw, 235), (Instr.add, 266), (Instr.divwu, 459), (Instr.divw, 491)]

/-- The instructions of format XFX, each with bits 10:1 of the word (R126, opcode 31). -/
def instructionsXfx : List ((RegIndex → BitVec 10 → Bool → Instr) × BitVec 10) :=
  [(Instr.mfcr, 19), (Instr.mtcrf, 144), (Instr.mfspr, 339), (Instr.mftb, 371), (Instr.mtspr, 467)]

/-- The instructions of format A, each with the primary opcode and bits 5:1 of the word (R127). -/
def instructionsA : List ((RegIndex → RegIndex → RegIndex → RegIndex → Bool → Instr) × BitVec 6 × BitVec 5) :=
  [(Instr.fdivs, 59, 18), (Instr.fsubs, 59, 20), (Instr.fadds, 59, 21), (Instr.fsqrts, 59, 22),
    (Instr.fres, 59, 24), (Instr.fmuls, 59, 25), (Instr.fmsubs, 59, 28), (Instr.fmadds, 59, 29),
    (Instr.fnmsubs, 59, 30), (Instr.fnmadds, 59, 31), (Instr.fdiv, 63, 18), (Instr.fsub, 63, 20),
    (Instr.fadd, 63, 21), (Instr.fsqrt, 63, 22), (Instr.fsel, 63, 23), (Instr.fmul, 63, 25),
    (Instr.frsqrte, 63, 26), (Instr.fmsub, 63, 28), (Instr.fmadd, 63, 29), (Instr.fnmsub, 63, 30)] ++
  [(Instr.fnmadd, 63, 31)]

end Sys2Proof.Machine

open Sys2Proof Sys2Proof.Machine

/-! ## The decoder, for any tables -/

/-- 40_decoder_ops.md R142: the scan answers the first entry, in declaration order, that the word matches, and none
iff no entry matches; an entry with a match bit outside its mask never matches; the rule's example. -/
def Obligations.ScanTakesTheFirstMatchingEntry : Prop :=
  ∀ (table : List DecodeTableEntry) (raw : Word),
    (scan table raw = none ↔ ∀ e ∈ table, raw &&& e.mask ≠ e.matchBits) ∧
    (∀ e, scan table raw = some e ↔
      ∃ before after, table = before ++ e :: after ∧ raw &&& e.mask = e.matchBits ∧
        ∀ e' ∈ before, raw &&& e'.mask ≠ e'.matchBits) ∧
    (∀ e : DecodeTableEntry, e.matchBits &&& ~~~e.mask ≠ 0#32 → raw &&& e.mask ≠ e.matchBits) ∧
    scan defaultTables.primary 0x38600005#32 = some ⟨0xFC000000#32, 0x38000000#32, .d, "addi"⟩

/-- R143 to R146 with decision D4: a match of the secondary family of the primary opcode stands, else the primary
result does; XFX is consulted only where X gives nothing. -/
def Obligations.SecondaryMatchStandsElsePrimaryResult : Prop :=
  ∀ (T : Tables) (raw : Word),
    (raw.toNat / 2 ^ 26 = 19 → lookup T raw = (scan T.xl raw).or (scan T.primary raw)) ∧
    (raw.toNat / 2 ^ 26 = 31 →
      lookup T raw = ((scan T.x raw).or (scan T.xfx raw)).or (scan T.primary raw)) ∧
    (raw.toNat / 2 ^ 26 = 59 ∨ raw.toNat / 2 ^ 26 = 63 →
      lookup T raw = (scan T.a raw).or (scan T.primary raw)) ∧
    (raw.toNat / 2 ^ 26 ∉ [19, 31, 59, 63] → lookup T raw = scan T.primary raw)

/-- R141 and R147: `raw` is kept, the primary opcode is its top six bits whether or not the word is matched, and the
format is the deciding entry's, UNKNOWN iff there is none (a table entry never has format UNKNOWN, R26); then every
field the braces do not name holds its default. -/
def Obligations.FormatIsTheDecidingEntrys : Prop :=
  ∀ (T : Tables) (raw : Word),
    (decode T raw).raw = raw ∧
    (decode T raw).primaryOpcode.toNat = raw.toNat / 2 ^ 26 ∧
    (∀ e, lookup T raw = some e → (decode T raw).format = e.format) ∧
    (lookup T raw = none → decode T raw = { raw := raw, primaryOpcode := raw.extractLsb' 26 6 }) ∧
    (TablesOf.wf T = true → ((decode T raw).format = .unknown ↔ lookup T raw = none))

/-- R148: the six common fields of every matched word, from their fixed positions. `simm` is `signed(raw[15:0])`
except for format DS, whose arm replaces it (R154). For a word that is not matched all six stay default. The spec's
own choices (log entry 15): the positions of `ra` and `rb` (D8, R101), and matched words only (conflict C1, D6). -/
def Obligations.MatchedWordFillsTheCommonFields : Prop :=
  ∀ (T : Tables) (raw : Word),
    (∀ e, lookup T raw = some e → e.format ≠ .unknown →
      (decode T raw).rt.toNat = raw.toNat / 2 ^ 21 % 32 ∧
      (decode T raw).ra.toNat = raw.toNat / 2 ^ 16 % 32 ∧
      (decode T raw).rb.toNat = raw.toNat / 2 ^ 11 % 32 ∧
      ((decode T raw).rc = true ↔ raw.toNat % 2 = 1) ∧
      (decode T raw).imm.toNat = raw.toNat % 2 ^ 16 ∧
      (e.format ≠ .ds →
        (decode T raw).simm.toInt =
          if raw.toNat % 2 ^ 16 < 2 ^ 15 then (raw.toNat % 2 ^ 16 : Int) else (raw.toNat % 2 ^ 16 : Int) - 2 ^ 16)) ∧
    (lookup T raw = none →
      (decode T raw).rt = 0 ∧ (decode T raw).ra = 0 ∧ (decode T raw).rb = 0 ∧ (decode T raw).rc = false ∧
      (decode T raw).imm = 0 ∧ (decode T raw).simm = 0)

/-- R149 (decision D7): the extended opcode is `raw[10:1]` for the formats X, XL, XFX and A and 0 for every other
word, matched or not. -/
def Obligations.ExtendedOpcodeOnlyForFourFormats : Prop :=
  ∀ (T : Tables) (raw : Word),
    (decode T raw).extendedOpcode.toNat =
      if (decode T raw).format ∈ [.x, .xl, .xfx, .a] then raw.toNat / 2 % 2 ^ 10 else 0

/-- R150 and R151: the I and B arms. The displacement is four times the signed 24-bit or 14-bit field, a multiple of
4; `lk` is bit 0 and `aa` bit 1; B also fills `bt`, `ba` and `bb`. The spec's own choices (log entry 15): the positions
of `lk`, `aa`, `bt`, `ba` and of the B displacement (D8, R101), and `bb` of a B word (D30). -/
def Obligations.BranchArmsExtractTheDisplacement : Prop :=
  ∀ (T : Tables) (raw : Word) (e : DecodeTableEntry), lookup T raw = some e →
    (e.format = .i →
      ((decode T raw).addr.toInt =
        if raw.toNat / 4 % 2 ^ 24 < 2 ^ 23 then 4 * (raw.toNat / 4 % 2 ^ 24 : Int)
        else 4 * ((raw.toNat / 4 % 2 ^ 24 : Int) - 2 ^ 24)) ∧
      ((decode T raw).lk = true ↔ raw.toNat % 2 = 1) ∧
      ((decode T raw).aa = true ↔ raw.toNat / 2 % 2 = 1) ∧
      (decode T raw).addr.toNat % 4 = 0 ∧ (decode T raw).rc = (decode T raw).lk) ∧
    (e.format = .b →
      ((decode T raw).addr.toInt =
        if raw.toNat / 4 % 2 ^ 14 < 2 ^ 13 then 4 * (raw.toNat / 4 % 2 ^ 14 : Int)
        else 4 * ((raw.toNat / 4 % 2 ^ 14 : Int) - 2 ^ 14)) ∧
      ((decode T raw).lk = true ↔ raw.toNat % 2 = 1) ∧
      ((decode T raw).aa = true ↔ raw.toNat / 2 % 2 = 1) ∧
      (decode T raw).bt.toNat = raw.toNat / 2 ^ 21 % 32 ∧
      (decode T raw).ba.toNat = raw.toNat / 2 ^ 16 % 32 ∧
      (decode T raw).bb.toNat = raw.toNat / 2 ^ 11 % 32 ∧
      (decode T raw).bt = (decode T raw).rt ∧ (decode T raw).ba = (decode T raw).ra ∧
      (decode T raw).bb = (decode T raw).rb ∧ (decode T raw).addr.toNat % 4 = 0)

/-- R154 (decision D10): for a DS word `simm` is the signed displacement with its two low bits zero, and `imm` keeps
all sixteen bits. -/
def Obligations.DsArmMasksTheDisplacement : Prop :=
  ∀ (T : Tables) (raw : Word) (e : DecodeTableEntry), lookup T raw = some e → e.format = .ds →
    ((decode T raw).simm.toInt =
      if raw.toNat / 4 % 2 ^ 14 < 2 ^ 13 then 4 * (raw.toNat / 4 % 2 ^ 14 : Int)
      else 4 * ((raw.toNat / 4 % 2 ^ 14 : Int) - 2 ^ 14)) ∧
    (decode T raw).imm.toNat = raw.toNat % 2 ^ 16

/-- R155 to R159: the arms X, XL, XFX, A and M, each field at its position; `spr` is the high half times 32 plus the
low half. The spec's own choices (log entry 15): the positions of `bt`, `ba`, `bb`, `lk`, `frt`, `fra`, `frb`, `frc`,
`sh`, `mb` and `me`, and of the common fields `ra` and `rb` they are compared with (D8, R101), and the extended opcode
that `oe` is compared with (D7). -/
def Obligations.RegisterArmsExtractTheirFields : Prop :=
  ∀ (T : Tables) (raw : Word) (e : DecodeTableEntry), lookup T raw = some e →
    (e.format = .x →
      ((decode T raw).oe = true ↔ raw.toNat / 2 ^ 10 % 2 = 1) ∧
      ((decode T raw).rc = true ↔ raw.toNat % 2 = 1) ∧
      (decode T raw).oe = (decode T raw).extendedOpcode.getLsbD 9 ∧
      (e.mask.getLsbD 10 = true → (decode T raw).oe = e.matchBits.getLsbD 10)) ∧
    (e.format = .xl →
      (decode T raw).bt.toNat = raw.toNat / 2 ^ 21 % 32 ∧
      (decode T raw).ba.toNat = raw.toNat / 2 ^ 16 % 32 ∧
      (decode T raw).bb.toNat = raw.toNat / 2 ^ 11 % 32 ∧
      ((decode T raw).lk = true ↔ raw.toNat % 2 = 1) ∧ (decode T raw).aa = false ∧
      (decode T raw).bt = (decode T raw).rt ∧ (decode T raw).ba = (decode T raw).ra ∧
      (decode T raw).bb = (decode T raw).rb ∧ (decode T raw).lk = (decode T raw).rc) ∧
    (e.format = .xfx →
      (decode T raw).spr.toNat = raw.toNat / 2 ^ 11 % 32 * 32 + raw.toNat / 2 ^ 16 % 32 ∧
      (decode T raw).spr.toNat = (decode T raw).rb.toNat * 32 + (decode T raw).ra.toNat) ∧
    (e.format = .a →
      (decode T raw).frt.toNat = raw.toNat / 2 ^ 21 % 32 ∧
      (decode T raw).fra.toNat = raw.toNat / 2 ^ 16 % 32 ∧
      (decode T raw).frb.toNat = raw.toNat / 2 ^ 11 % 32 ∧
      (decode T raw).frc.toNat = raw.toNat / 2 ^ 6 % 32 ∧
      ((decode T raw).rc = true ↔ raw.toNat % 2 = 1) ∧ (decode T raw).frt = (decode T raw).rt ∧
      (decode T raw).fra = (decode T raw).ra ∧ (decode T raw).frb = (decode T raw).rb) ∧
    (e.format = .m →
      (decode T raw).sh.toNat = raw.toNat / 2 ^ 11 % 32 ∧
      (decode T raw).mb.toNat = raw.toNat / 2 ^ 6 % 32 ∧
      (decode T raw).me.toNat = raw.toNat / 2 % 32 ∧ (decode T raw).sh = (decode T raw).rb ∧
      ((decode T raw).rc = true ↔ raw.toNat % 2 = 1))

/-- R152, R153 and R160: SC, D, MD, MDS and XFL fill the common fields and nothing else; an UNKNOWN word has `raw`
and `primaryOpcode` and the default everywhere else, the common fields included. Every field of the record that the
braces do not name holds the default of 10_state.md R27. The spec's own choices (log entry 15): the positions of `ra`
and `rb` (D8, R101), and the common fields of matched words only (conflict C1, D6). -/
def Obligations.ArmsThatWriteNothing : Prop :=
  ∀ (T : Tables) (raw : Word),
    (∀ e, lookup T raw = some e → e.format ∈ [.sc, .d, .md, .mds, .xfl] →
      decode T raw =
        { raw := raw, format := e.format, primaryOpcode := raw.extractLsb' 26 6,
          rt := raw.extractLsb' 21 5, ra := raw.extractLsb' 16 5, rb := raw.extractLsb' 11 5,
          imm := raw.extractLsb' 0 16, simm := raw.extractLsb' 0 16, rc := raw.getLsbD 0 }) ∧
    (lookup T raw = none →
      decode T raw =
        { raw := raw, format := .unknown, primaryOpcode := raw.extractLsb' 26 6, extendedOpcode := 0,
          rt := 0, ra := 0, rb := 0, bt := 0, ba := 0, bb := 0, frt := 0, fra := 0, frb := 0, frc := 0,
          imm := 0, simm := 0, addr := 0, spr := 0, sh := 0, mb := 0, me := 0,
          rc := false, oe := false, lk := false, aa := false })

/-- 30_encoding.md R115: the ranges of the signed results. -/
def Obligations.DisplacementsStayInTheirRanges : Prop :=
  ∀ (T : Tables) (raw : Word),
    (-32768 ≤ (decode T raw).simm.toInt ∧ (decode T raw).simm.toInt ≤ 32767) ∧
    ((decode T raw).format = .ds →
      (decode T raw).simm.toInt ≤ 32764 ∧ (4 : Int) ∣ (decode T raw).simm.toInt) ∧
    ((decode T raw).format = .i →
      -33554432 ≤ (decode T raw).addr.toInt ∧ (decode T raw).addr.toInt ≤ 33554428 ∧
        (4 : Int) ∣ (decode T raw).addr.toInt) ∧
    ((decode T raw).format = .b →
      -32768 ≤ (decode T raw).addr.toInt ∧ (decode T raw).addr.toInt ≤ 32764 ∧
        (4 : Int) ∣ (decode T raw).addr.toInt)

/-- 10_state.md R27 (with conflict C2): in every record `decode` gives, a field its format does not fill holds its
default, except the six common fields of a matched word; `primaryOpcode` is `raw[31:26]`. -/
def Obligations.DecodedRecordsAreWellFormed : Prop :=
  ∀ (T : Tables) (raw : Word), TablesOf.wf T = true → (decode T raw).wf = true

/-- R161 (decision D11): the mnemonic comes from a lookup of `d.raw` alone, so a record whose other fields were
falsified gets the name of its word; the sentinel is `unknown`. -/
def Obligations.NameReadsOnlyTheWord : Prop :=
  ∀ (T : Tables) (d d' : DecodedInstruction),
    (∀ e, lookup T d.raw = some e → instructionName T d = e.mnemonic) ∧
    (lookup T d.raw = none → instructionName T d = "unknown") ∧
    (d.raw = d'.raw → instructionName T d = instructionName T d')

/-- R162: the two operations agree on every word. -/
def Obligations.NameAndFormatAgree : Prop :=
  ∀ (T : Tables) (raw : Word), TablesOf.wf T = true →
    ((decode T raw).format = .unknown ↔ instructionName T (decode T raw) = "unknown") ∧
    ((decode T raw).format ≠ .unknown →
      ∃ e ∈ T.primary ++ T.xl ++ T.x ++ T.xfx ++ T.a,
        lookup T raw = some e ∧ (decode T raw).format = e.format ∧
          instructionName T (decode T raw) = e.mnemonic)

/-! ## The default tables -/

/-- 30_encoding.md R128: no word matches two entries of one table, nor an X entry and an XFX entry; every entry is
well formed; 57 + 13 + 87 + 5 + 21 entries. -/
def Obligations.DefaultTablesDoNotOverlap : Prop :=
  (∀ t ∈ [defaultTables.primary, defaultTables.xl, defaultTables.x ++ defaultTables.xfx, defaultTables.a],
    t.Pairwise fun e e' => ∀ raw : Word, ¬(raw &&& e.mask = e.matchBits ∧ raw &&& e'.mask = e'.matchBits)) ∧
  (∀ e ∈ defaultTables.primary ++ defaultTables.xl ++ defaultTables.x ++ defaultTables.xfx ++ defaultTables.a,
    e.matchBits &&& ~~~e.mask = 0#32) ∧
  defaultTables.primary.length = 57 ∧ defaultTables.xl.length = 13 ∧ defaultTables.x.length = 87 ∧
  defaultTables.xfx.length = 5 ∧ defaultTables.a.length = 21

/-- R121 and R128: under `DefaultTables` an entry decides every word it selects, an XL, X or XFX entry among the
words of its primary opcode. -/
def Obligations.DefaultEntryDecidesEveryWordItSelects : Prop :=
  ∀ (raw : Word) (e : DecodeTableEntry), raw &&& e.mask = e.matchBits →
    (e ∈ defaultTables.primary ∨ e ∈ defaultTables.a ∨
      (e ∈ defaultTables.xl ∧ raw.toNat / 2 ^ 26 = 19) ∨
      (e ∈ defaultTables.x ++ defaultTables.xfx ∧ raw.toNat / 2 ^ 26 = 31)) →
    lookup defaultTables raw = some e

/-- Words written out from the pictures R102 to R111 and the maps R123 to R127, and the instructions they stand for. -/
def Obligations.WrittenOutWordsDecode : Prop :=
  decodeWord 0b001110_00011_00000_0000000000000101#32 = some (.addi 3 0 5) ∧
  decodeWord 0b010000_01100_00010_11111111111110_0_1#32 = some (.bc 12 2 0x3FFE false true) ∧
  decodeWord 0b010010_111111111111111111111111_0_1#32 = some (.b 0xFFFFFF false true) ∧
  decodeWord 0b010101_00011_00100_00101_00101_11111_1#32 = some (.rlwinm 3 4 5 5 31 true) ∧
  decodeWord 0b111010_00011_00100_11111111111110_01#32 = some (.ldu 3 4 0x3FFE) ∧
  decodeWord 0b010011_00001_00010_00011_0100000001_0#32 = some (.crand 1 2 3 false) ∧
  decodeWord 0b011111_00011_00000_00011_1_100001010_1#32 = some (.add 3 0 3 true true) ∧
  decodeWord 0b011111_00011_01100_01000_0101010011_0#32 = some (.mfspr 3 268 false) ∧
  decodeWord 0b111111_00001_00010_00011_00100_11101_0#32 = some (.fmadd 1 2 3 4 false) ∧
  decodeWord 0#32 = none

/-- Decoding the bytes of an encoded instruction gives it back, with every operand at every value, and leaves the
bytes after it. -/
def Obligations.EncodeThenDecode : Prop :=
  ∀ (i : Instr) (rest : List Byte),
    decodeWord (encode i) = some i ∧ decodeBytes (encodeBytes i ++ rest) = .ok (i, rest)

/-- The other direction: a word that decodes is the encoding of what it decodes to, so no bit of it is dropped. -/
def Obligations.DecodeThenEncode : Prop :=
  ∀ (raw : Word) (i : Instr), decodeWord raw = some i → encode i = raw

/-- R129: a word stands for no instruction iff `decode` gives it format UNKNOWN; the all-zero word does not, the
all-ones word is `fnmadd`. -/
def Obligations.WordsWithoutInstructionAreUnknown : Prop :=
  (∀ raw : Word, decodeWord raw = none ↔ (decode defaultTables raw).format = .unknown) ∧
  decodeWord 0#32 = none ∧ decodeWord 0xFFFFFFFF#32 = some (.fnmadd 31 31 31 31 true)

/-- R161 with the entry rules of files 41 to 45: `instructionName` of any record of an instruction's word is the
instruction's mnemonic, and that is never the sentinel. -/
def Obligations.NameOfAnInstructionIsItsMnemonic : Prop :=
  ∀ (i : Instr) (d : DecodedInstruction), d.raw = encode i →
    instructionName defaultTables d = i.mnemonic ∧ i.mnemonic ≠ "unknown"

/-! ## What each instruction does

An instruction's effect is that the decoder answers with its record (R140); the whole machine but `responses` is
unchanged (R163 (e)). That the answer is appended to `responses` is the model's choice (log entry 4). -/

/-- R105, R148, R153 and the map R123: the D-form instructions. -/
def Obligations.DFormInstructionsAnswer : Prop :=
  ∀ p ∈ instructionsD, ∀ (rt ra : RegIndex) (imm : BitVec 16) (s : State),
    exec (p.1 rt ra imm) s = .next { s with responses := s.responses ++ [.decoded
      { raw := p.2 ++ rt ++ ra ++ imm, format := .d, primaryOpcode := p.2, rt := rt, ra := ra,
        rb := imm.extractLsb' 11 5, imm := imm, simm := imm, rc := imm.getLsbD 0 }] }

/-- R102 to R104, R148, R150 to R152: `b`, `bc` and `sc`. -/
def Obligations.BranchAndSystemCallInstructionsAnswer : Prop :=
  ∀ (li : BitVec 24) (bt ba : RegIndex) (bd : BitVec 14) (aa lk : Bool) (low : BitVec 26) (s : State),
    exec (.b li aa lk) s = .next { s with responses := s.responses ++ [.decoded
      { raw := 18#6 ++ li ++ BitVec.ofBool aa ++ BitVec.ofBool lk, format := .i, primaryOpcode := 18,
        rt := li.extractLsb' 19 5, ra := li.extractLsb' 14 5, rb := li.extractLsb' 9 5,
        imm := li.extractLsb' 0 14 ++ BitVec.ofBool aa ++ BitVec.ofBool lk,
        simm := li.extractLsb' 0 14 ++ BitVec.ofBool aa ++ BitVec.ofBool lk,
        addr := (li ++ 0#2).signExtend 32, rc := lk, lk := lk, aa := aa }] } ∧
    exec (.bc bt ba bd aa lk) s = .next { s with responses := s.responses ++ [.decoded
      { raw := 16#6 ++ bt ++ ba ++ bd ++ BitVec.ofBool aa ++ BitVec.ofBool lk, format := .b, primaryOpcode := 16,
        rt := bt, ra := ba, rb := bd.extractLsb' 9 5, bt := bt, ba := ba, bb := bd.extractLsb' 9 5,
        imm := bd ++ BitVec.ofBool aa ++ BitVec.ofBool lk, simm := bd ++ BitVec.ofBool aa ++ BitVec.ofBool lk,
        addr := (bd ++ 0#2).signExtend 32, rc := lk, lk := lk, aa := aa }] } ∧
    exec (.sc low) s = .next { s with responses := s.responses ++ [.decoded
      { raw := 17#6 ++ low, format := .sc, primaryOpcode := 17, rt := low.extractLsb' 21 5,
        ra := low.extractLsb' 16 5, rb := low.extractLsb' 11 5, imm := low.extractLsb' 0 16,
        simm := low.extractLsb' 0 16, rc := low.getLsbD 0 }] }

/-- R111, R113, R148, R159, R160 and the map R123: the rotate instructions, M, MD and MDS. -/
def Obligations.RotateInstructionsAnswer : Prop :=
  (∀ p ∈ instructionsM, ∀ (rt ra sh mb me : RegIndex) (rc : Bool) (s : State),
    exec (p.1 rt ra sh mb me rc) s = .next { s with responses := s.responses ++ [.decoded
      { raw := p.2 ++ rt ++ ra ++ sh ++ mb ++ me ++ BitVec.ofBool rc, format := .m, primaryOpcode := p.2,
        rt := rt, ra := ra, rb := sh, imm := sh ++ mb ++ me ++ BitVec.ofBool rc,
        simm := sh ++ mb ++ me ++ BitVec.ofBool rc, sh := sh, mb := mb, me := me, rc := rc }] }) ∧
  (∀ p ∈ instructionsMd, ∀ (rt ra rb : RegIndex) (mid : BitVec 6) (low : BitVec 2) (s : State),
    exec (p.1 rt ra rb mid low) s = .next { s with responses := s.responses ++ [.decoded
      { raw := 30#6 ++ rt ++ ra ++ rb ++ mid ++ p.2 ++ low, format := .md, primaryOpcode := 30,
        rt := rt, ra := ra, rb := rb, imm := rb ++ mid ++ p.2 ++ low, simm := rb ++ mid ++ p.2 ++ low,
        rc := low.getLsbD 0 }] }) ∧
  (∀ p ∈ instructionsMds, ∀ (rt ra rb : RegIndex) (mid : BitVec 6) (rc : Bool) (s : State),
    exec (p.1 rt ra rb mid rc) s = .next { s with responses := s.responses ++ [.decoded
      { raw := 30#6 ++ rt ++ ra ++ rb ++ mid ++ p.2 ++ BitVec.ofBool rc, format := .mds, primaryOpcode := 30,
        rt := rt, ra := ra, rb := rb, imm := rb ++ mid ++ p.2 ++ BitVec.ofBool rc,
        simm := rb ++ mid ++ p.2 ++ BitVec.ofBool rc, rc := rc }] })

/-- R106, R148, R154 and the map R123: the DS-form instructions. -/
def Obligations.DsFormInstructionsAnswer : Prop :=
  ∀ p ∈ instructionsDs, ∀ (rt ra : RegIndex) (ds : BitVec 14) (s : State),
    exec (p.1 rt ra ds) s = .next { s with responses := s.responses ++ [.decoded
      { raw := p.2.1 ++ rt ++ ra ++ ds ++ p.2.2, format := .ds, primaryOpcode := p.2.1, rt := rt, ra := ra,
        rb := ds.extractLsb' 9 5, imm := ds ++ p.2.2, simm := ds ++ 0#2, rc := p.2.2.getLsbD 0 }] }

/-- R108, R148, R149, R156 and the map R125: the XL-form instructions. -/
def Obligations.XlFormInstructionsAnswer : Prop :=
  ∀ p ∈ instructionsXl, ∀ (bt ba bb : RegIndex) (lk : Bool) (s : State),
    exec (p.1 bt ba bb lk) s = .next { s with responses := s.responses ++ [.decoded
      { raw := 19#6 ++ bt ++ ba ++ bb ++ p.2 ++ BitVec.ofBool lk, format := .xl, primaryOpcode := 19,
        extendedOpcode := p.2, rt := bt, ra := ba, rb := bb, bt := bt, ba := ba, bb := bb,
        imm := bb ++ p.2 ++ BitVec.ofBool lk, simm := bb ++ p.2 ++ BitVec.ofBool lk, rc := lk, lk := lk }] }

/-- R107, R148, R149, R155 and the map R124: the X-form instructions whose entry fixes bit 10; `oe` is the top bit
of the extended opcode. -/
def Obligations.XFormInstructionsAnswer : Prop :=
  ∀ p ∈ instructionsX, ∀ (rt ra rb : RegIndex) (rc : Bool) (s : State),
    exec (p.1 rt ra rb rc) s = .next { s with responses := s.responses ++ [.decoded
      { raw := 31#6 ++ rt ++ ra ++ rb ++ p.2 ++ BitVec.ofBool rc, format := .x, primaryOpcode := 31,
        extendedOpcode := p.2, rt := rt, ra := ra, rb := rb, imm := rb ++ p.2 ++ BitVec.ofBool rc,
        simm := rb ++ p.2 ++ BitVec.ofBool rc, rc := rc, oe := p.2.getLsbD 9 }] }

/-- R107, R148, R149, R155 and the map R124 (decision D5): the fourteen X-form instructions with an overflow-enable
form; `oe` follows the word. -/
def Obligations.OverflowEnableInstructionsAnswer : Prop :=
  ∀ p ∈ instructionsXo, ∀ (rt ra rb : RegIndex) (oe rc : Bool) (s : State),
    exec (p.1 rt ra rb oe rc) s = .next { s with responses := s.responses ++ [.decoded
      { raw := 31#6 ++ rt ++ ra ++ rb ++ BitVec.ofBool oe ++ p.2 ++ BitVec.ofBool rc, format := .x,
        primaryOpcode := 31, extendedOpcode := BitVec.ofBool oe ++ p.2, rt := rt, ra := ra, rb := rb,
        imm := rb ++ BitVec.ofBool oe ++ p.2 ++ BitVec.ofBool rc,
        simm := rb ++ BitVec.ofBool oe ++ p.2 ++ BitVec.ofBool rc, rc := rc, oe := oe }] }

/-- R109, R112, R148, R149, R157 and the map R126: the XFX-form instructions. -/
def Obligations.XfxFormInstructionsAnswer : Prop :=
  ∀ p ∈ instructionsXfx, ∀ (rt : RegIndex) (spr : BitVec 10) (rc : Bool) (s : State),
    exec (p.1 rt spr rc) s = .next { s with responses := s.responses ++ [.decoded
      { raw := 31#6 ++ rt ++ spr.extractLsb' 0 5 ++ spr.extractLsb' 5 5 ++ p.2 ++ BitVec.ofBool rc,
        format := .xfx, primaryOpcode := 31, extendedOpcode := p.2, rt := rt, ra := spr.extractLsb' 0 5,
        rb := spr.extractLsb' 5 5, imm := spr.extractLsb' 5 5 ++ p.2 ++ BitVec.ofBool rc,
        simm := spr.extractLsb' 5 5 ++ p.2 ++ BitVec.ofBool rc, spr := spr, rc := rc }] }

/-- R110, R148, R149, R158 and the map R127: the A-form instructions; the extended opcode is `frc` over the
sub-opcode. -/
def Obligations.AFormInstructionsAnswer : Prop :=
  ∀ p ∈ instructionsA, ∀ (frt fra frb frc : RegIndex) (rc : Bool) (s : State),
    exec (p.1 frt fra frb frc rc) s = .next { s with responses := s.responses ++ [.decoded
      { raw := p.2.1 ++ frt ++ fra ++ frb ++ frc ++ p.2.2 ++ BitVec.ofBool rc, format := .a,
        primaryOpcode := p.2.1, extendedOpcode := frc ++ p.2.2, rt := frt, ra := fra, rb := frb,
        frt := frt, fra := fra, frb := frb, frc := frc, imm := frb ++ frc ++ p.2.2 ++ BitVec.ofBool rc,
        simm := frb ++ frc ++ p.2.2 ++ BitVec.ofBool rc, rc := rc }] }

/-! ## The step -/

/-- 10_state.md R40, R45: a `decode` request whose word decodes to an instruction runs that instruction, on the
machine with the request taken from the queue (log entry 4); so does the word that `withFetchWord` hands over (log
entry 6), whatever requests wait behind it. -/
def Obligations.StepRunsTheDecodedInstruction : Prop :=
  (∀ (s : State) (raw : Word) (rest : List Request) (i : Instr),
    s.requests = .decode raw :: rest → decodeWord raw = some i → step s = exec i { s with requests := rest }) ∧
  (∀ (s : State) (nbits w : Nat) (i : Instr),
    decodeTableWord nbits w = some i → step (s.withFetchWord nbits w) = exec i s)

/-- 40_decoder_ops.md R140 and R164: for every one of the 2^32 words a `decode` request is answered with
`decode(raw)`, the generic extraction under `DefaultTables`, and nothing else of the machine changes. The queue and
the list of answers are the model's (log entry 4). -/
def Obligations.DecodeRequestAnswersDecode : Prop :=
  ∀ (s : State) (raw : Word) (rest : List Request), s.requests = .decode raw :: rest →
    step s = .next { s with
      requests := rest
      responses := s.responses ++ [.decoded (decode defaultTables raw)] }

/-- R41 and R161: an `instructionName` request is answered with the name of its word; nothing else changes. -/
def Obligations.NameRequestAnswersTheName : Prop :=
  ∀ (s : State) (d : DecodedInstruction) (rest : List Request), s.requests = .instructionName d :: rest →
    step s = .next { s with
      requests := rest
      responses := s.responses ++ [.name (instructionName defaultTables (decode defaultTables d.raw))] }

/-- R163 (e): a decoder request and a memory operation can be exchanged: the same two answers are given, and the
same memory system is left, or the run stops with the same refusal. -/
def Obligations.DecoderRequestsCommuteWithMemory : Prop :=
  ∀ (s : State) (a : Request) (op : MemOp Config.addressWidth) (rest : List Request),
    ((∃ raw, a = .decode raw) ∨ (∃ d, a = .instructionName d)) →
    (∃ x y m,
      Host.Core.run Sys2Proof.core 2 { s with requests := a :: .mem op :: rest } =
        .next { mem := m, requests := rest, responses := s.responses ++ [x, y] } ∧
      Host.Core.run Sys2Proof.core 2 { s with requests := .mem op :: a :: rest } =
        .next { mem := m, requests := rest, responses := s.responses ++ [y, x] }) ∨
    (∃ e,
      Host.Core.run Sys2Proof.core 2 { s with requests := a :: .mem op :: rest } = .refused e ∧
      Host.Core.run Sys2Proof.core 2 { s with requests := .mem op :: a :: rest } = .refused e)

/-- With no request waiting the machine does nothing: the model's choice (log entry 5). -/
def Obligations.IdleStepChangesNothing : Prop :=
  ∀ s : State, s.requests = [] → step s = .next s

/-! ## The life of the memory system -/

/-- 70_reset_and_hazards.md R700 and the table of 10_state.md R35 (decisions D16, D18, D19, D28): from any state,
whatever its life, `init` leaves exactly this. -/
def Obligations.InitGivesTheResetTable : Prop :=
  ∀ (aw : Nat) (size : BitVec aw) (m : MemorySystem aw), aw = 32 ∨ aw = 64 →
    ∃ m', m.perform (.init size) = .ok (.done, m') ∧
      m'.ramSize = size.toNat ∧ (∀ a, Memory.readByte m'.ram a = 0) ∧
      (∀ i : Fin 64, m'.itlb.get i =
        if i.val < 16 then
          { vaddrTag := BitVec.ofNat aw (i.val * 4096), paddrBase := BitVec.ofNat aw (i.val * 4096),
            permissionFlags := 0b101#3, valid := true }
        else { vaddrTag := 0, paddrBase := 0, permissionFlags := 0, valid := false }) ∧
      (∀ i : Fin 64, m'.dtlb.get i =
        if i.val < 16 then
          { vaddrTag := BitVec.ofNat aw (i.val * 4096), paddrBase := BitVec.ofNat aw (i.val * 4096),
            permissionFlags := 0b011#3, valid := true }
        else { vaddrTag := 0, paddrBase := 0, permissionFlags := 0, valid := false }) ∧
      m'.tlbHits = 0 ∧ m'.tlbMisses = 0 ∧ m'.life = .live

/-- R35 (decision D28: hardware reset is `init`): the reset machine is a machine after `init`. The size 0x20000 is
the model's choice (log entry 1), and so are the empty queue and the empty list of answers (log entry 4). -/
def Obligations.ResetIsInit : Prop :=
  (∀ m : MemorySystem 64, m.perform (.init 0x20000#64) = .ok (.done, State.reset.mem)) ∧
  State.reset.requests = [] ∧ State.reset.responses = []

/-- 60_exceptions.md R600: no input faults in a live state. There is no fault at all; with the memory system live
every request but an overlapping pair is answered, and the memory requests by the operation they name. The queue and
the one answer appended per request are the model's (log entry 4), and so is the overlapping request (log entry 9). -/
def Obligations.LiveMachineAlwaysAnswers : Prop :=
  IsEmpty Fault ∧
  ∀ (s : State) (r : Request) (rest : List Request), s.requests = r :: rest → s.mem.life = .live →
    (∀ op op', r ≠ .overlapping op op') →
    (∃ answer m, step s = .next { mem := m, requests := rest, responses := s.responses ++ [answer] }) ∧
    (∀ op, r = .mem op → ∃ answer m, s.mem.perform op = .ok (answer, m) ∧ lifeAfter op .live = some m.life ∧
      step s = .next { mem := m, requests := rest, responses := s.responses ++ [.mem answer] })

/-- 10_state.md R31, R36 and 60_exceptions.md R608: outside its life every operation but the inits is refused, by
the name of the reason; `init` is performed in any life state, and so is the model's separate `init` that fails (log entry
7); overlapping operations are refused. The queue and the answer appended are the model's (log entry 4), and so is the
overlapping request (log entry 9). -/
def Obligations.OperationsOutsideTheLifeAreRefused : Prop :=
  ∀ (s : State) (op op' : MemOp Config.addressWidth) (rest : List Request),
    (s.requests = .mem op :: rest → (∀ n, op ≠ .init n) → (∀ n, op ≠ .initAllocationFailure n) →
      (s.mem.life = .uninit → step s = .refused .beforeInit) ∧
      (s.mem.life = .destroyed → step s = .refused .afterDestroy)) ∧
    (∀ n, s.requests = .mem (.init n) :: rest →
      ∃ m, s.mem.perform (.init n) = .ok (.done, m) ∧ m.life = .live ∧ m.ramSize = n.toNat ∧
        step s = .next { mem := m, requests := rest, responses := s.responses ++ [.mem .done] }) ∧
    (∀ n, s.requests = .mem (.initAllocationFailure n) :: rest →
      ∃ m, s.mem.perform (.initAllocationFailure n) = .ok (.allocationFailure, m) ∧ m.life = .uninit ∧
        step s = .next { mem := m, requests := rest, responses := s.responses ++ [.mem .allocationFailure] }) ∧
    (s.requests = .overlapping op op' :: rest → step s = .refused .overlappingOperations)

/-- R701: `destroy` ends the life; that it keeps every other field is the model's choice (log entry 10); a second
`destroy` is refused. The `init` whose allocation fails is the outcome R607 leaves to the model (log entry 7):
afterwards `life = Uninit`, and every operation that is neither `init` nor this one is refused, `destroy` too. -/
def Obligations.DestroyAndFailedInitEndTheLife : Prop :=
  ∀ (aw : Nat) (m : MemorySystem aw),
    (m.life = .live → m.perform .destroy = .ok (.done, { m with life := .destroyed }) ∧
      MemorySystem.perform .destroy { m with life := .destroyed } = .error .afterDestroy) ∧
    (∀ n, ∃ m', m.perform (.initAllocationFailure n) = .ok (.allocationFailure, m') ∧ m'.life = .uninit ∧
      m'.ram = [] ∧ m'.ramSize = 0 ∧
      ∀ op, (∀ k, op ≠ .init k) → (∀ k, op ≠ .initAllocationFailure k) → m'.perform op = .error .beforeInit)

/-- 00_scope.md R11: a run whose requests all have a meaning when their turn comes (`init` before use, no use after
`destroy`, no overlap) never stops: after any number of steps the machine goes on, with so many requests served and
one answer for each. One answer per request is the model's (log entry 4), and so are the overlapping request (log
entry 9) and the `init` that fails (log entry 7). -/
def Obligations.AdmissibleRunsNeverStop : Prop :=
  ∀ s : State, Admissible s.mem.life s.requests → ∀ k : Nat,
    ∃ t : State, Host.Core.run Sys2Proof.core k s = .next t ∧ t.requests = s.requests.drop k ∧
      t.responses.length = s.responses.length + min k s.requests.length

/-! ## The translator -/

/-- 46_tlb_ops.md R503: a hit. The entry at index `v[17:12]` is valid and tagged with the page of `v`: one more hit,
the entry's base with the page offset as the result, and nothing else changes, whatever the permission flags are. A
page-aligned base makes the OR a sum. -/
def Obligations.TranslateHit : Prop :=
  ∀ (aw : Nat) (v : BitVec aw) (f : Bool) (m : MemorySystem aw) (i : Fin 64) (e : TlbEntry aw),
    m.life = .live → i.val = v.toNat / 4096 % 64 → e = (if f then m.itlb else m.dtlb).get i →
    e.valid = true → e.vaddrTag.toNat = v.toNat / 4096 * 4096 →
    m.perform (.translate v f) =
      .ok (.paddr (e.paddrBase ||| (v &&& BitVec.ofNat aw 0xFFF)), { m with tlbHits := m.tlbHits + 1 }) ∧
    (e.paddrBase.toNat % 4096 = 0 →
      (e.paddrBase ||| (v &&& BitVec.ofNat aw 0xFFF)).toNat = e.paddrBase.toNat + v.toNat % 4096)

/-- R504: a miss. The entry at the index is invalid or tagged with another page: one more miss, the address itself as
the result, and the whole entry at that index of the selected TLB is replaced by the identity mapping of the page
with flags 0b111; nothing else changes. -/
def Obligations.TranslateMiss : Prop :=
  ∀ (aw : Nat) (v : BitVec aw) (f : Bool) (m : MemorySystem aw) (i : Fin 64) (e new : TlbEntry aw),
    m.life = .live → i.val = v.toNat / 4096 % 64 → e = (if f then m.itlb else m.dtlb).get i →
    ¬(e.valid = true ∧ e.vaddrTag.toNat = v.toNat / 4096 * 4096) →
    new = { vaddrTag := BitVec.ofNat aw (v.toNat / 4096 * 4096)
            paddrBase := BitVec.ofNat aw (v.toNat / 4096 * 4096)
            permissionFlags := 0b111#3
            valid := true } →
    m.perform (.translate v f) =
      .ok (.paddr v,
        { m with
          tlbMisses := m.tlbMisses + 1
          itlb := if f then m.itlb.set i.val new i.isLt else m.itlb
          dtlb := if f then m.dtlb else m.dtlb.set i.val new i.isLt })

/-- R505: in every state that keeps the invariant R32, `translate` returns its argument. -/
def Obligations.TranslateReturnsItsArgument : Prop :=
  ∀ (aw : Nat) (v : BitVec aw) (f : Bool) (m : MemorySystem aw), m.Inv → m.life = .live →
    ∃ m', m.perform (.translate v f) = .ok (.paddr v, m')

/-- R510 (a) to (f): what the counters show of a translation. R43 of 10_state.md: in a live state a read of the counter
port answers the counter and changes nothing. The counters are natural numbers (log entry 3). -/
def Obligations.TranslationLaws : Prop :=
  ∀ (aw : Nat) (v w : BitVec aw) (f : Bool) (m : MemorySystem aw),
    (∀ op r m', translationOf op ≠ none → m.perform op = .ok (r, m') →
      m'.tlbHits + m'.tlbMisses = m.tlbHits + m.tlbMisses + 1) ∧
    (∀ op ∈ [MemOp.flush, .destroy, .readTlbHits, .readTlbMisses], ∀ r m', m.perform op = .ok (r, m') →
      m'.tlbHits = m.tlbHits ∧ m'.tlbMisses = m.tlbMisses) ∧
    (Machine.translate v f (Machine.translate v f m).2).2.tlbHits = (Machine.translate v f m).2.tlbHits + 1 ∧
    (pageBase v = pageBase w →
      (Machine.translate w f (Machine.translate v f m).2).2.tlbHits = (Machine.translate v f m).2.tlbHits + 1) ∧
    (tlbIndex v = tlbIndex w → pageBase v ≠ pageBase w →
      (Machine.translate v f (Machine.translate w f (Machine.translate v f m).2).2).2.tlbMisses =
        (Machine.translate w f (Machine.translate v f m).2).2.tlbMisses + 1) ∧
    (Machine.translate v f (flushTlbs m)).2.tlbMisses = m.tlbMisses + 1 ∧
    (∀ op r m', (∀ n, op ≠ .init n) → (∀ n, op ≠ .initAllocationFailure n) → m.perform op = .ok (r, m') →
      m.tlbHits ≤ m'.tlbHits ∧ m.tlbMisses ≤ m'.tlbMisses) ∧
    (m.life = .live →
      m.perform .readTlbHits = .ok (.count m.tlbHits, m) ∧ m.perform .readTlbMisses = .ok (.count m.tlbMisses, m))

/-- R508: the two TLBs share nothing but the counters. A translation leaves the other TLB alone, its result, its own
TLB and the counters do not depend on the other TLB, and both kinds add one to the same counters. -/
def Obligations.TlbsAreIndependent : Prop :=
  ∀ (aw : Nat) (v : BitVec aw) (m : MemorySystem aw) (t : Tlb aw),
    (Machine.translate v true m).2.dtlb = m.dtlb ∧ (Machine.translate v false m).2.itlb = m.itlb ∧
    Machine.translate v true { m with dtlb := t } = ((Machine.translate v true m).1, { (Machine.translate v true m).2 with dtlb := t }) ∧
    Machine.translate v false { m with itlb := t } =
      ((Machine.translate v false m).1, { (Machine.translate v false m).2 with itlb := t }) ∧
    ∀ f, (Machine.translate v f m).2.tlbHits + (Machine.translate v f m).2.tlbMisses = m.tlbHits + m.tlbMisses + 1

/-- R506 (decision D18): `flush` clears the 128 valid bits and changes nothing else; two flushes equal one. -/
def Obligations.FlushClearsTheValidBitsOnly : Prop :=
  ∀ (aw : Nat) (m : MemorySystem aw), m.life = .live →
    ∃ m', m.perform .flush = .ok (.done, m') ∧ m'.perform .flush = .ok (.done, m') ∧
      (∀ i : Fin 64, m'.itlb.get i = { m.itlb.get i with valid := false }) ∧
      (∀ i : Fin 64, m'.dtlb.get i = { m.dtlb.get i with valid := false }) ∧
      m' = { m with itlb := m'.itlb, dtlb := m'.dtlb }

/-! ## The sized accessors -/

/-- 47_mem_access_ops.md R531 to R534: one data-side translation; then zero where the last byte lies at or beyond
RAM_SIZE, else the bytes from the translated address on, the first one most significant. Nothing changes but what the
translation changes. That the test is on integers, without wrap-around, is the spec's own choice (D14, 20_memory.md
R70; log entry 15). -/
def Obligations.ReadsReturnBigEndianBytesOrZero : Prop :=
  ∀ (aw : Nat) (v : BitVec aw) (m : MemorySystem aw), m.life = .live →
    ∀ (p : Nat) (m' : MemorySystem aw) (b : Nat → Byte),
      p = (Machine.translate v false m).1.toNat → m' = (Machine.translate v false m).2 →
      (∀ k, b k = Memory.readByte m.ram (p + k)) →
      m.perform (.read8 v) = .ok (.value8 (if p ≥ m.ramSize then 0 else b 0), m') ∧
      m.perform (.read16 v) = .ok (.value16 (if p + 1 ≥ m.ramSize then 0 else b 0 ++ b 1), m') ∧
      m.perform (.read32 v) =
        .ok (.value32 (if p + 3 ≥ m.ramSize then 0 else b 0 ++ b 1 ++ b 2 ++ b 3), m') ∧
      m.perform (.read64 v) =
        .ok (.value64 (if p + 7 ≥ m.ramSize then 0
          else b 0 ++ b 1 ++ b 2 ++ b 3 ++ b 4 ++ b 5 ++ b 6 ++ b 7), m')

/-- R535 to R538: one data-side translation; then RAM is unchanged where the last byte lies at or beyond RAM_SIZE,
else the bytes of the value are stored from the translated address on, most significant first, and every other byte
reads as before. Nothing else changes but what the translation changes. The spec's own choices (log entry 15): the
test on integers (D14, 20_memory.md R70) and the width of the value (D27). The canonical form assumed of RAM is the
model's (log entry 8). -/
def Obligations.WritesStoreBigEndianBytesOrNothing : Prop :=
  ∀ (aw : Nat) (v : BitVec aw) (m : MemorySystem aw), m.life = .live → Memory.wf m.ram = true →
    ∀ (p : Nat) (m' : MemorySystem aw), p = (Machine.translate v false m).1.toNat → m' = (Machine.translate v false m).2 →
      (∀ x : BitVec 8, ∃ ram', m.perform (.write8 v x) = .ok (.done, { m' with ram := ram' }) ∧
        (p ≥ m.ramSize → ram' = m.ram) ∧
        (p < m.ramSize → ∀ a, Memory.readByte ram' a = if a = p then x else Memory.readByte m.ram a)) ∧
      (∀ x : BitVec 16, ∃ ram', m.perform (.write16 v x) = .ok (.done, { m' with ram := ram' }) ∧
        (p + 1 ≥ m.ramSize → ram' = m.ram) ∧
        (p + 1 < m.ramSize → ∀ a, Memory.readByte ram' a =
          if a = p then x.extractLsb' 8 8 else if a = p + 1 then x.extractLsb' 0 8
          else Memory.readByte m.ram a)) ∧
      (∀ x : BitVec 32, ∃ ram', m.perform (.write32 v x) = .ok (.done, { m' with ram := ram' }) ∧
        (p + 3 ≥ m.ramSize → ram' = m.ram) ∧
        (p + 3 < m.ramSize → ∀ a, Memory.readByte ram' a =
          if a = p then x.extractLsb' 24 8 else if a = p + 1 then x.extractLsb' 16 8
          else if a = p + 2 then x.extractLsb' 8 8 else if a = p + 3 then x.extractLsb' 0 8
          else Memory.readByte m.ram a)) ∧
      (∀ x : BitVec 64, ∃ ram', m.perform (.write64 v x) = .ok (.done, { m' with ram := ram' }) ∧
        (p + 7 ≥ m.ramSize → ram' = m.ram) ∧
        (p + 7 < m.ramSize → ∀ a, Memory.readByte ram' a =
          if p ≤ a ∧ a ≤ p + 7 then x.extractLsb' (56 - 8 * (a - p)) 8 else Memory.readByte m.ram a))

/-- R539 (a), (c), (d): in a live state with the invariant, what a write stored within bounds the same-width read
returns; a read that ends out of bounds returns 0; directly after `init` every read returns 0. Bounds are tested on
integers (D14, log entry 15). -/
def Obligations.ReadAfterWriteReturnsTheValue : Prop :=
  ∀ (aw : Nat) (v : BitVec aw) (m : MemorySystem aw), m.Inv → m.life = .live →
    (∀ x, v.toNat < m.ramSize → (read8 v (write8 v x m)).1 = x) ∧
    (∀ x, v.toNat + 1 < m.ramSize → (read16 v (write16 v x m)).1 = x) ∧
    (∀ x, v.toNat + 3 < m.ramSize → (read32 v (write32 v x m)).1 = x) ∧
    (∀ x, v.toNat + 7 < m.ramSize → (read64 v (write64 v x m)).1 = x) ∧
    (v.toNat ≥ m.ramSize → (read8 v m).1 = 0) ∧ (v.toNat + 1 ≥ m.ramSize → (read16 v m).1 = 0) ∧
    (v.toNat + 3 ≥ m.ramSize → (read32 v m).1 = 0) ∧ (v.toNat + 7 ≥ m.ramSize → (read64 v m).1 = 0) ∧
    (∀ size : BitVec aw, (read8 v (initInstance size)).1 = 0 ∧ (read16 v (initInstance size)).1 = 0 ∧
      (read32 v (initInstance size)).1 = 0 ∧ (read64 v (initInstance size)).1 = 0)

/-- R539 (f) and 20_memory.md R64: within bounds a wide read is the concatenation of two narrower ones, performed one
after the other. -/
def Obligations.WideReadsAreTwoNarrowReads : Prop :=
  ∀ (aw : Nat) (v : BitVec aw) (m : MemorySystem aw), m.Inv →
    (v.toNat + 1 < m.ramSize → (read16 v m).1 = (read8 v m).1 ++ (read8 (v + 1) (read8 v m).2).1) ∧
    (v.toNat + 3 < m.ramSize → (read32 v m).1 = (read16 v m).1 ++ (read16 (v + 2) (read16 v m).2).1) ∧
    (v.toNat + 7 < m.ramSize → (read64 v m).1 = (read32 v m).1 ++ (read32 (v + 4) (read32 v m).2).1)

/-- R530 (a), (b) and 20_memory.md R66, R68: an operation that translates, in bounds or not, aligned or not, crossing
a page or not, adds one to exactly one counter and touches exactly one entry of one TLB, the one at the index of the
address of its first byte, where that page is resident afterwards. -/
def Obligations.AccessTranslatesOnceAtItsFirstByte : Prop :=
  ∀ (aw : Nat) (op : MemOp aw) (v : BitVec aw) (f : Bool) (m m' : MemorySystem aw) (r : MemResult aw) (i : Fin 64),
    translationOf op = some (v, f) → m.perform op = .ok (r, m') → i.val = v.toNat / 4096 % 64 →
    ((m'.tlbHits = m.tlbHits + 1 ∧ m'.tlbMisses = m.tlbMisses) ∨
      (m'.tlbHits = m.tlbHits ∧ m'.tlbMisses = m.tlbMisses + 1)) ∧
    (m'.tlb (!f)) = m.tlb (!f) ∧ (∀ j : Fin 64, j ≠ i → (m'.tlb f).get j = (m.tlb f).get j) ∧
    ((m'.tlb f).get i).valid = true ∧ ((m'.tlb f).get i).vaddrTag.toNat = v.toNat / 4096 * 4096 ∧
    m'.ramSize = m.ramSize ∧ m'.life = m.life

/-! ## Invariants and whole histories -/

/-- The invariant R32, with RAM in canonical form (log entry 8) within RAM_SIZE (log entry 1), holds right after
reset. -/
def Obligations.InvariantHoldsAtReset : Prop := State.reset.Inv

/-- 10_state.md R32: every step keeps the invariant, from every state that has it, for every request. That RAM is in
canonical form is the model's part of it (log entry 8). -/
def Obligations.StepKeepsTheInvariant : Prop :=
  ∀ s t : State, s.Inv → step s = .next t → t.Inv

/-- The canonical form (the model's, log entry 8): two RAMs in it that read the same at every offset are the same
list. -/
def Obligations.CanonicalRamIsDetermined : Prop :=
  ∀ m m' : Memory, Memory.wf m = true → Memory.wf m' = true →
    (∀ a, Memory.readByte m a = Memory.readByte m' a) → m = m'

/-- R539 (e) and 10_state.md R33: what a history returns depends on RAM, RAM_SIZE and the life only, never on the
TLBs or the counters, except where it reads a counter. Two memory systems that hold the same data refuse the same
histories, and give the same results and hold the same data after the others. -/
def Obligations.TlbContentsNeverReachTheData : Prop :=
  ∀ (aw : Nat) (ops : List (MemOp aw)) (m m' : MemorySystem aw), m.Inv → m'.Inv → SameData m m' →
    (∀ e, MemorySystem.performAll ops m = .error e ↔ MemorySystem.performAll ops m' = .error e) ∧
    ∀ rs n rs' n', MemorySystem.performAll ops m = .ok (rs, n) → MemorySystem.performAll ops m' = .ok (rs', n') →
      SameData n n' ∧ rs.length = ops.length ∧ rs'.length = ops.length ∧
      ∀ (k : Nat) (op : MemOp aw), ops[k]? = some op → readsCounter op = false → rs[k]? = rs'[k]?

/-- R509 and 10_state.md R33: the permission flags are observable through nothing. Two memory systems that differ in
their flags only give every history the same results, the counters included, and still differ in flags only. -/
def Obligations.PermissionFlagsNeverMatter : Prop :=
  ∀ (aw : Nat) (ops : List (MemOp aw)) (m m' : MemorySystem aw), m.withoutFlags = m'.withoutFlags →
    (∀ e, MemorySystem.performAll ops m = .error e ↔ MemorySystem.performAll ops m' = .error e) ∧
    ∀ rs n rs' n', MemorySystem.performAll ops m = .ok (rs, n) → MemorySystem.performAll ops m' = .ok (rs', n') →
      rs = rs' ∧ n.withoutFlags = n'.withoutFlags

/-- 20_memory.md R72: after `init` and any history, a byte reads as the most recent in-bounds write that covered it
left it, or 0 if there is none since `init`; out of bounds it reads 0. -/
def Obligations.LastWriteWins : Prop :=
  ∀ (aw : Nat) (size : BitVec aw) (ops : List (MemOp aw)) (m m' : MemorySystem aw) (rs : List (MemResult aw)),
    (∀ op ∈ ops, changesLife op = false) → MemorySystem.performAll (.init size :: ops) m = .ok (rs, m') →
    m'.life = .live ∧ m'.ramSize = size.toNat ∧
    ∀ v : BitVec aw, (read8 v m').1 = if v.toNat < size.toNat then lastWritten size.toNat ops v.toNat else 0

/-- R510 (a), (f) over a history: hits and misses together count the translations, and neither goes down (log entry 3:
the counters are natural numbers). -/
def Obligations.CountersCountTheTranslations : Prop :=
  ∀ (aw : Nat) (ops : List (MemOp aw)) (m m' : MemorySystem aw) (rs : List (MemResult aw)),
    (∀ op ∈ ops, changesLife op = false) → MemorySystem.performAll ops m = .ok (rs, m') →
    m'.tlbHits + m'.tlbMisses = m.tlbHits + m.tlbMisses + (ops.filter fun op => (translationOf op).isSome).length ∧
    m.tlbHits ≤ m'.tlbHits ∧ m.tlbMisses ≤ m'.tlbMisses

/-- 46_tlb_ops.md R507: which page is resident. After `init` and any history, the entry at an index of a TLB is valid
iff a page was translated there since the last flush (the seeds counting as translated before the history), and holds
the last one: a direct-mapped TLB, overwritten on a collision. -/
def Obligations.LastTranslatedPageIsResident : Prop :=
  ∀ (aw : Nat) (size : BitVec aw) (ops : List (MemOp aw)) (m m' : MemorySystem aw) (rs : List (MemResult aw)),
    aw = 32 ∨ aw = 64 → (∀ op ∈ ops, changesLife op = false) →
    MemorySystem.performAll (.init size :: ops) m = .ok (rs, m') →
    ∀ (f : Bool) (i : Fin 64),
      (if ((m'.tlb f).get i).valid = true then some ((m'.tlb f).get i).vaddrTag else none) =
        residentPage f i (seededPage i) ops
end

