-- ==== Sys2Proof/Laws/State.lean ====
section
/-! SUPPORT. The small lemmas of the state: one per field per update, so that no later proof unfolds an update. -/

namespace Sys2Proof.Machine

variable {aw : Nat}

@[simp] theorem State.respond_mem (r : Response) (s : State) : (s.respond r).mem = s.mem := rfl
@[simp] theorem State.respond_requests (r : Response) (s : State) : (s.respond r).requests = s.requests := rfl
@[simp] theorem State.respond_responses (r : Response) (s : State) :
    (s.respond r).responses = s.responses ++ [r] := rfl

@[simp] theorem State.withFetchWord_mem (s : State) (nbits w : Nat) : (s.withFetchWord nbits w).mem = s.mem := rfl
@[simp] theorem State.withFetchWord_responses (s : State) (nbits w : Nat) :
    (s.withFetchWord nbits w).responses = s.responses := rfl
@[simp] theorem State.withFetchWord_requests (s : State) (nbits w : Nat) :
    (s.withFetchWord nbits w).requests = .decode (BitVec.ofNat 32 (w % 2 ^ nbits)) :: s.requests := rfl

@[simp] theorem countHit_ramSize (m : MemorySystem aw) : (countHit m).ramSize = m.ramSize := rfl
@[simp] theorem countHit_ram (m : MemorySystem aw) : (countHit m).ram = m.ram := rfl
@[simp] theorem countHit_itlb (m : MemorySystem aw) : (countHit m).itlb = m.itlb := rfl
@[simp] theorem countHit_dtlb (m : MemorySystem aw) : (countHit m).dtlb = m.dtlb := rfl
@[simp] theorem countHit_tlbHits (m : MemorySystem aw) : (countHit m).tlbHits = m.tlbHits + 1 := rfl
@[simp] theorem countHit_tlbMisses (m : MemorySystem aw) : (countHit m).tlbMisses = m.tlbMisses := rfl
@[simp] theorem countHit_life (m : MemorySystem aw) : (countHit m).life = m.life := rfl

@[simp] theorem countMiss_ramSize (m : MemorySystem aw) : (countMiss m).ramSize = m.ramSize := rfl
@[simp] theorem countMiss_ram (m : MemorySystem aw) : (countMiss m).ram = m.ram := rfl
@[simp] theorem countMiss_itlb (m : MemorySystem aw) : (countMiss m).itlb = m.itlb := rfl
@[simp] theorem countMiss_dtlb (m : MemorySystem aw) : (countMiss m).dtlb = m.dtlb := rfl
@[simp] theorem countMiss_tlbHits (m : MemorySystem aw) : (countMiss m).tlbHits = m.tlbHits := rfl
@[simp] theorem countMiss_tlbMisses (m : MemorySystem aw) : (countMiss m).tlbMisses = m.tlbMisses + 1 := rfl
@[simp] theorem countMiss_life (m : MemorySystem aw) : (countMiss m).life = m.life := rfl

@[simp] theorem withTlb_ramSize (m : MemorySystem aw) (f : Bool) (t : Tlb aw) :
    (m.withTlb f t).ramSize = m.ramSize := by cases f <;> rfl
@[simp] theorem withTlb_ram (m : MemorySystem aw) (f : Bool) (t : Tlb aw) : (m.withTlb f t).ram = m.ram := by
  cases f <;> rfl
@[simp] theorem withTlb_tlbHits (m : MemorySystem aw) (f : Bool) (t : Tlb aw) :
    (m.withTlb f t).tlbHits = m.tlbHits := by cases f <;> rfl
@[simp] theorem withTlb_tlbMisses (m : MemorySystem aw) (f : Bool) (t : Tlb aw) :
    (m.withTlb f t).tlbMisses = m.tlbMisses := by cases f <;> rfl
@[simp] theorem withTlb_life (m : MemorySystem aw) (f : Bool) (t : Tlb aw) : (m.withTlb f t).life = m.life := by
  cases f <;> rfl
@[simp] theorem withTlb_itlb_true (m : MemorySystem aw) (t : Tlb aw) : (m.withTlb true t).itlb = t := rfl
@[simp] theorem withTlb_dtlb_true (m : MemorySystem aw) (t : Tlb aw) : (m.withTlb true t).dtlb = m.dtlb := rfl
@[simp] theorem withTlb_itlb_false (m : MemorySystem aw) (t : Tlb aw) : (m.withTlb false t).itlb = m.itlb := rfl
@[simp] theorem withTlb_dtlb_false (m : MemorySystem aw) (t : Tlb aw) : (m.withTlb false t).dtlb = t := rfl
@[simp] theorem tlb_true (m : MemorySystem aw) : m.tlb true = m.itlb := rfl
@[simp] theorem tlb_false (m : MemorySystem aw) : m.tlb false = m.dtlb := rfl
@[simp] theorem tlb_withTlb (m : MemorySystem aw) (f : Bool) (t : Tlb aw) : (m.withTlb f t).tlb f = t := by
  cases f <;> rfl
@[simp] theorem tlb_withTlb_not (m : MemorySystem aw) (f : Bool) (t : Tlb aw) :
    (m.withTlb f t).tlb (!f) = m.tlb (!f) := by cases f <;> rfl
@[simp] theorem tlb_countHit (m : MemorySystem aw) (f : Bool) : (countHit m).tlb f = m.tlb f := by cases f <;> rfl
@[simp] theorem tlb_countMiss (m : MemorySystem aw) (f : Bool) : (countMiss m).tlb f = m.tlb f := by cases f <;> rfl

@[simp] theorem flushTlbs_ramSize (m : MemorySystem aw) : (flushTlbs m).ramSize = m.ramSize := rfl
@[simp] theorem flushTlbs_ram (m : MemorySystem aw) : (flushTlbs m).ram = m.ram := rfl
@[simp] theorem flushTlbs_tlbHits (m : MemorySystem aw) : (flushTlbs m).tlbHits = m.tlbHits := rfl
@[simp] theorem flushTlbs_tlbMisses (m : MemorySystem aw) : (flushTlbs m).tlbMisses = m.tlbMisses := rfl
@[simp] theorem flushTlbs_life (m : MemorySystem aw) : (flushTlbs m).life = m.life := rfl
@[simp] theorem flushTlbs_itlb (m : MemorySystem aw) :
    (flushTlbs m).itlb = m.itlb.map TlbEntry.invalidate := rfl
@[simp] theorem flushTlbs_dtlb (m : MemorySystem aw) :
    (flushTlbs m).dtlb = m.dtlb.map TlbEntry.invalidate := rfl

/-- An operation that needs a live instance: its whole result is the operation's, or a refusal. -/
theorem whenLive_eq_ok {α : Type} {m : MemorySystem aw} {x y : α} :
    whenLive m x = .ok y ↔ m.life = .live ∧ x = y := by
  unfold whenLive
  cases m.life <;> simp

theorem whenLive_of_live {α : Type} {m : MemorySystem aw} (h : m.life = .live) (x : α) : whenLive m x = .ok x := by
  simp [whenLive, h]

theorem whenLive_of_not_live {α : Type} {m : MemorySystem aw} (h : m.life ≠ .live) (x : α) :
    whenLive m x = .error (if m.life = .uninit then .beforeInit else .afterDestroy) := by
  unfold whenLive
  revert h
  cases m.life <;> simp

end Sys2Proof.Machine
end

