-- ==== Sys2Proof/Laws/Memory.lean ====
section
/-! SUPPORT. The laws of RAM: what a write changes, that every write keeps the canonical form, and what a sized
access reads and writes. -/

namespace Sys2Proof.Machine

/-! ## One byte -/

theorem readByte_of_wfFrom_lt {m : Memory} : ∀ {lo a : Nat}, Memory.wfFrom lo m = true → a < lo →
    Memory.readByte m a = Config.unlistedByte := by
  induction m with
  | nil => intros; rfl
  | cons c rest ih =>
    obtain ⟨k, b⟩ := c
    intro lo a h ha
    simp only [Memory.wfFrom, Bool.and_eq_true, decide_eq_true_eq] at h
    rw [Memory.readByte, if_neg (by omega)]
    exact ih h.2 (by omega)

theorem wfFrom_mono {m : Memory} {lo lo' : Nat} (h : Memory.wfFrom lo m = true) (hle : lo' ≤ lo) :
    Memory.wfFrom lo' m = true := by
  cases m with
  | nil => rfl
  | cons c rest =>
    obtain ⟨k, b⟩ := c
    simp only [Memory.wfFrom, Bool.and_eq_true, decide_eq_true_eq] at h ⊢
    exact ⟨⟨by omega, h.1.2⟩, h.2⟩

/-- A write keeps the canonical form. -/
theorem wfFrom_writeByte {m : Memory} : ∀ {lo a : Nat} (v : Byte), Memory.wfFrom lo m = true → lo ≤ a →
    Memory.wfFrom lo (Memory.writeByte m a v) = true := by
  induction m with
  | nil =>
    intro lo a v _ ha
    by_cases hv : v = Config.unlistedByte <;> simp [Memory.writeByte, Memory.wfFrom, hv, ha]
  | cons c rest ih =>
    obtain ⟨k, b⟩ := c
    intro lo a v h ha
    have h' := h
    simp only [Memory.wfFrom, Bool.and_eq_true, decide_eq_true_eq] at h'
    obtain ⟨⟨hk, hb⟩, hr⟩ := h'
    unfold Memory.writeByte
    split
    · split
      · exact h
      · rename_i hv
        simp only [Memory.wfFrom, Bool.and_eq_true, decide_eq_true_eq]
        exact ⟨⟨ha, by simpa using hv⟩, ⟨by omega, hb⟩, hr⟩
    · split
      · rename_i hak
        split
        · exact wfFrom_mono hr (by omega)
        · rename_i hv
          simp only [Memory.wfFrom, Bool.and_eq_true, decide_eq_true_eq]
          exact ⟨⟨ha, by simpa using hv⟩, hak ▸ hr⟩
      · simp only [Memory.wfFrom, Bool.and_eq_true, decide_eq_true_eq]
        exact ⟨⟨hk, hb⟩, ih v hr (by omega)⟩

theorem wf_writeByte {m : Memory} (h : Memory.wf m = true) (a : Nat) (v : Byte) :
    Memory.wf (Memory.writeByte m a v) = true := wfFrom_writeByte v h (Nat.zero_le _)

/-- Read after write, for RAM in canonical form from some offset on. -/
theorem readByte_writeByte_from {m : Memory} : ∀ {lo : Nat} (a x : Nat) (v : Byte), Memory.wfFrom lo m = true →
    Memory.readByte (Memory.writeByte m a v) x = if x = a then v else Memory.readByte m x := by
  induction m with
  | nil =>
    intro lo a x v _
    by_cases hv : v = Config.unlistedByte <;> by_cases hx : x = a <;>
      simp [Memory.writeByte, Memory.readByte, hv, hx, eq_comm (a := a)]
  | cons c rest ih =>
    obtain ⟨k, b⟩ := c
    intro lo a x v h
    simp only [Memory.wfFrom, Bool.and_eq_true, decide_eq_true_eq] at h
    have hr := h.2
    have hlow : ∀ y, y ≤ k → Memory.readByte rest y = Config.unlistedByte :=
      fun y hy => readByte_of_wfFrom_lt hr (by omega)
    rcases Nat.lt_trichotomy a k with hak | hak | hak
    · have hka : ¬k = a := by omega
      by_cases hv : v = Config.unlistedByte <;> by_cases hx : x = a
      · subst hx
        simp [Memory.writeByte, Memory.readByte, hak, hv, hka, hlow x (by omega)]
      · simp [Memory.writeByte, hak, hv, hx]
      · simp [Memory.writeByte, Memory.readByte, hak, hv, hx]
      · simp [Memory.writeByte, Memory.readByte, hak, hv, hx, Ne.symm hx]
    · subst hak
      by_cases hv : v = Config.unlistedByte <;> by_cases hx : x = a
      · subst hx
        simp [Memory.writeByte, hv, hlow x (by omega)]
      · simp [Memory.writeByte, Memory.readByte, hv, hx, Ne.symm hx]
      · simp [Memory.writeByte, Memory.readByte, hv, hx]
      · simp [Memory.writeByte, Memory.readByte, hv, hx, Ne.symm hx]
    · have h1 : ¬a < k := by omega
      have h2 : ¬a = k := by omega
      simp only [Memory.writeByte, Memory.readByte, if_neg h1, if_neg h2, ih a x v hr]
      by_cases hx : x = a
      · subst hx
        simp [Ne.symm h2]
      · simp [hx]

theorem readByte_writeByte {m : Memory} (h : Memory.wf m = true) (a x : Nat) (v : Byte) :
    Memory.readByte (Memory.writeByte m a v) x = if x = a then v else Memory.readByte m x :=
  readByte_writeByte_from a x v h

theorem below_writeByte {m : Memory} {size a : Nat} (h : Memory.below size m = true) (ha : a < size) (v : Byte) :
    Memory.below size (Memory.writeByte m a v) = true := by
  induction m with
  | nil => by_cases hv : v = Config.unlistedByte <;> simp [Memory.writeByte, Memory.below, hv, ha]
  | cons c rest ih =>
    obtain ⟨k, b⟩ := c
    have h' : k < size ∧ Memory.below size rest = true := by simpa [Memory.below] using h
    have cons_below : ∀ {c : Host.Cell} {t : Memory}, c.1 < size → Memory.below size t = true →
        Memory.below size (c :: t) = true := by
      intro c t hc ht
      unfold Memory.below at ht ⊢
      rw [List.all_cons, ht, Bool.and_true]
      exact decide_eq_true hc
    unfold Memory.writeByte
    split
    · split
      · exact h
      · exact cons_below ha h
    · split
      · split
        · exact h'.2
        · exact cons_below ha h'.2
      · exact cons_below h'.1 (ih h'.2)

/-! ## Consecutive bytes -/

theorem wf_writeBytes (bytes : List Byte) : ∀ {m : Memory} (p : Nat), Memory.wf m = true →
    Memory.wf (Memory.writeBytes m p bytes) = true := by
  induction bytes with
  | nil => intro m p h; exact h
  | cons b rest ih => intro m p h; exact ih (p + 1) (wf_writeByte h p b)

theorem below_writeBytes (bytes : List Byte) : ∀ {m : Memory} {size p : Nat}, Memory.below size m = true →
    p + bytes.length ≤ size → Memory.below size (Memory.writeBytes m p bytes) = true := by
  induction bytes with
  | nil => intro m size p h _; exact h
  | cons b rest ih =>
    intro m size p h hp
    simp only [List.length_cons] at hp
    exact ih (below_writeByte h (by omega) b) (by omega)

/-- What a byte reads as after consecutive bytes are stored. -/
theorem readByte_writeBytes (bytes : List Byte) : ∀ {m : Memory} (p x : Nat), Memory.wf m = true →
    Memory.readByte (Memory.writeBytes m p bytes) x =
      if p ≤ x ∧ x < p + bytes.length then bytes.getD (x - p) 0 else Memory.readByte m x := by
  induction bytes with
  | nil =>
    intro m p x _
    rw [if_neg (by simp only [List.length_nil]; omega)]
    rfl
  | cons b rest ih =>
    intro m p x h
    rw [Memory.writeBytes, ih (p + 1) x (wf_writeByte h p b), readByte_writeByte h p x b]
    simp only [List.length_cons]
    by_cases hx : x = p
    · subst hx
      rw [if_neg (by omega), if_pos rfl, if_pos (by omega)]
      simp
    · by_cases hin : p + 1 ≤ x ∧ x < p + 1 + rest.length
      · rw [if_pos hin, if_pos (by omega), show x - p = (x - (p + 1)) + 1 by omega, List.getD_cons_succ]
      · rw [if_neg hin, if_neg hx, if_neg (by omega)]

@[simp] theorem length_beBytes (n : Nat) (v : BitVec (8 * n)) : (beBytes n v).length = n := by simp [beBytes]

theorem getD_beBytes {n k : Nat} (v : BitVec (8 * n)) (hk : k < n) :
    (beBytes n v).getD k 0 = v.extractLsb' (8 * (n - 1 - k)) 8 := by
  simp [beBytes, List.getD_eq_getElem?_getD, hk]

/-- What a byte reads as after `MemWrite` (20_memory.md R63). -/
theorem readByte_memWrite {m : Memory} (h : Memory.wf m = true) (p n x : Nat) (v : BitVec (8 * n)) :
    Memory.readByte (memWrite m p n v) x =
      if p ≤ x ∧ x < p + n then v.extractLsb' (8 * (n - 1 - (x - p))) 8 else Memory.readByte m x := by
  rw [memWrite, readByte_writeBytes _ p x h, length_beBytes]
  split
  · rw [getD_beBytes v (by omega)]
  · rfl

theorem wf_memWrite {m : Memory} (h : Memory.wf m = true) (p n : Nat) (v : BitVec (8 * n)) :
    Memory.wf (memWrite m p n v) = true := wf_writeBytes _ p h

theorem below_memWrite {m : Memory} {size p n : Nat} (h : Memory.below size m = true) (hp : p + n ≤ size)
    (v : BitVec (8 * n)) : Memory.below size (memWrite m p n v) = true :=
  below_writeBytes _ h (by simpa using hp)

/-! ## Big-endian values -/

theorem beNat_snoc (bytes : List Byte) (b : Byte) : beNat (bytes ++ [b]) = beNat bytes * 256 + b.toNat := by
  simp [beNat]

theorem beNat_lt (bytes : List Byte) : beNat bytes < 2 ^ (8 * bytes.length) := by
  induction bytes using List.reverseRecOn with
  | nil => simp [beNat]
  | append_singleton xs b ih =>
    rw [beNat_snoc, List.length_append, List.length_singleton, Nat.mul_add, Nat.pow_add]
    have := b.isLt
    omega

@[simp] theorem length_readBytes (m : Memory) (p n : Nat) : (Memory.readBytes m p n).length = n := by
  simp [Memory.readBytes]

theorem readBytes_succ (m : Memory) (p n : Nat) :
    Memory.readBytes m p (n + 1) = Memory.readBytes m p n ++ [Memory.readByte m (p + n)] := by
  simp [Memory.readBytes, List.range_succ]

theorem toNat_memRead (m : Memory) (p n : Nat) : (memRead m p n).toNat = beNat (Memory.readBytes m p n) := by
  rw [memRead, BitVec.toNat_ofNat]
  exact Nat.mod_eq_of_lt (by simpa using beNat_lt (Memory.readBytes m p n))

/-- One more byte goes to the low end: `RAM[p] || ... || RAM[p + n]`. -/
theorem toNat_memRead_succ (m : Memory) (p n : Nat) :
    (memRead m p (n + 1)).toNat = (memRead m p n).toNat * 256 + (Memory.readByte m (p + n)).toNat := by
  rw [toNat_memRead, toNat_memRead, readBytes_succ, beNat_snoc]

/-- `MemRead` depends only on the bytes it covers. -/
theorem memRead_congr {m m' : Memory} {p n : Nat}
    (h : ∀ k < n, Memory.readByte m (p + k) = Memory.readByte m' (p + k)) : memRead m p n = memRead m' p n := by
  have : Memory.readBytes m p n = Memory.readBytes m' p n := by
    unfold Memory.readBytes
    exact List.map_congr_left fun k hk => h k (List.mem_range.mp hk)
  rw [memRead, memRead, this]

/-- The number the first `j` bytes of a value stand for. -/
theorem beNat_prefix {n : Nat} (v : BitVec (8 * n)) (f : Nat → Byte)
    (hf : ∀ k < n, f k = v.extractLsb' (8 * (n - 1 - k)) 8) :
    ∀ j ≤ n, beNat ((List.range j).map f) = v.toNat / 2 ^ (8 * (n - j)) := by
  intro j
  induction j with
  | zero =>
    intro _
    rw [Nat.sub_zero, Nat.div_eq_of_lt v.isLt]
    rfl
  | succ j ih =>
    intro hj
    rw [List.range_succ, List.map_append, List.map_singleton, beNat_snoc, ih (by omega), hf j (by omega),
      BitVec.extractLsb'_toNat, Nat.shiftRight_eq_div_pow]
    have e : 8 * (n - j) = 8 * (n - 1 - j) + 8 := by omega
    have e' : n - (j + 1) = n - 1 - j := by omega
    rw [e, e', Nat.pow_add, ← Nat.div_div_eq_div_mul]
    have h256 : (2 : Nat) ^ 8 = 256 := by norm_num
    rw [h256]
    generalize v.toNat / 2 ^ (8 * (n - 1 - j)) = q
    omega

/-- Round trip: a value written is read back (R539 (a) on RAM itself). -/
theorem memRead_memWrite {m : Memory} (h : Memory.wf m = true) (p n : Nat) (v : BitVec (8 * n)) :
    memRead (memWrite m p n v) p n = v := by
  apply BitVec.eq_of_toNat_eq
  rw [toNat_memRead]
  have hf : ∀ k < n, Memory.readByte (memWrite m p n v) (p + k) = v.extractLsb' (8 * (n - 1 - k)) 8 := by
    intro k hk
    rw [readByte_memWrite h, if_pos (by omega), Nat.add_sub_cancel_left]
  have := beNat_prefix v (fun k => Memory.readByte (memWrite m p n v) (p + k)) hf n (Nat.le_refl n)
  simpa [Memory.readBytes] using this

end Sys2Proof.Machine
end

