-- ==== Sys2Proof/Laws/Tlb.lean ====
section
/-! SUPPORT. The laws of the translator: what an address is made of, what a fill changes, everything a translation
can do, and what that does to the invariant. -/

namespace Sys2Proof.Machine

variable {aw : Nat}

/-! ## Addresses -/

theorem pageBase_or_pageOffset (v : BitVec aw) : pageBase v ||| pageOffset v = v := by
  ext i hi
  simp only [pageBase, pageOffset, BitVec.getElem_or, BitVec.getElem_and, BitVec.getElem_not]
  cases v[i] <;> cases (BitVec.ofNat aw Config.pageMask)[i] <;> rfl

@[simp] theorem pageBase_pageBase (v : BitVec aw) : pageBase (pageBase v) = pageBase v := by
  ext i hi
  simp only [pageBase, BitVec.getElem_and, BitVec.getElem_not]
  cases v[i] <;> cases (BitVec.ofNat aw Config.pageMask)[i] <;> rfl

@[simp] theorem pageOffset_pageBase (v : BitVec aw) : pageOffset (pageBase v) = 0 := by
  ext i hi
  simp only [pageBase, pageOffset, BitVec.getElem_and, BitVec.getElem_not]
  cases v[i] <;> cases (BitVec.ofNat aw Config.pageMask)[i] <;> simp

/-- The index as a number: six bits of the page number (R500). -/
theorem tlbIndexNat_eq (v : BitVec aw) : tlbIndexNat v = v.toNat / 4096 % 64 := by
  unfold tlbIndexNat
  rw [BitVec.toNat_and, BitVec.toNat_ushiftRight, BitVec.toNat_ofNat, Nat.shiftRight_eq_div_pow]
  show v.toNat / 4096 &&& (63 % 2 ^ aw) = v.toNat / 4096 % 64
  have hv := v.isLt
  by_cases h6 : 6 ≤ aw
  · have : 2 ^ 6 ≤ 2 ^ aw := Nat.pow_le_pow_right (by omega) h6
    rw [Nat.mod_eq_of_lt (by omega)]
    exact Nat.and_two_pow_sub_one_eq_mod (v.toNat / 4096) 6
  · have : 2 ^ aw ≤ 2 ^ 5 := Nat.pow_le_pow_right (by omega) (by omega)
    rw [Nat.div_eq_of_lt (by omega)]
    simp

@[simp] theorem tlbIndex_val (v : BitVec aw) : (tlbIndex v).val = v.toNat / 4096 % 64 := tlbIndexNat_eq v

theorem toNat_pageBase (v : BitVec aw) : (pageBase v).toNat / 4096 = v.toNat / 4096 := by
  have h : (pageBase v) >>> 12 = v >>> 12 := by
    ext i hi
    simp only [pageBase, BitVec.getElem_ushiftRight, BitVec.getLsbD_and, BitVec.getLsbD_not, BitVec.getLsbD_ofNat]
    have : Nat.testBit Config.pageMask (12 + i) = false := by
      apply Nat.testBit_lt_two_pow
      calc Config.pageMask < 2 ^ 12 := by decide
        _ ≤ 2 ^ (12 + i) := Nat.pow_le_pow_right (by omega) (by omega)
    by_cases hb : 12 + i < aw
    · simp [this, hb]
    · simp [hb, BitVec.getLsbD_of_ge v (12 + i) (by omega)]
  have h' := congrArg BitVec.toNat h
  simpa only [BitVec.toNat_ushiftRight, Nat.shiftRight_eq_div_pow] using h'

/-- The index depends on the page only. -/
@[simp] theorem tlbIndex_pageBase (v : BitVec aw) : tlbIndex (pageBase v) = tlbIndex v := by
  apply Fin.ext
  rw [tlbIndex_val, tlbIndex_val, toNat_pageBase]

theorem tlbIndex_congr {v w : BitVec aw} (h : pageBase v = pageBase w) : tlbIndex v = tlbIndex w := by
  rw [← tlbIndex_pageBase v, h, tlbIndex_pageBase]

/-! ## Fill and flush -/

theorem get_tlbInsert_same (t : Tlb aw) (v p : BitVec aw) (flags : BitVec 3) :
    (tlbInsert t v p flags).get (tlbIndex v) =
      { vaddrTag := pageBase v, paddrBase := pageBase p, permissionFlags := flags, valid := true } := by
  simp only [tlbInsert, Vector.get_eq_getElem, Vector.getElem_set_self]

theorem get_tlbInsert_ne (t : Tlb aw) (v p : BitVec aw) (flags : BitVec 3) {i : Fin Config.tlbSize}
    (h : i ≠ tlbIndex v) : (tlbInsert t v p flags).get i = t.get i := by
  have h' : (tlbIndex v).val ≠ i.val := fun e => h (Fin.ext e.symm)
  simp only [tlbInsert, Vector.get_eq_getElem]
  exact Vector.getElem_set_ne _ _ h'

theorem get_map {f : TlbEntry aw → TlbEntry aw} (t : Tlb aw) (i : Fin Config.tlbSize) :
    (t.map f).get i = f (t.get i) := by
  simp only [Vector.get_eq_getElem, Vector.getElem_map]

/-- A fill with an identity mapping keeps R32. -/
theorem tlbOk_tlbInsert {t : Tlb aw} (h : TlbOk t) (v : BitVec aw) (flags : BitVec 3) :
    TlbOk (tlbInsert t v v flags) := by
  intro i
  by_cases hi : i = tlbIndex v
  · subst hi
    intro _
    rw [get_tlbInsert_same]
    exact ⟨pageOffset_pageBase v, pageOffset_pageBase v, tlbIndex_pageBase v, rfl⟩
  · rw [get_tlbInsert_ne t v v flags hi]
    exact h i

theorem tlbOk_invalidate (t : Tlb aw) : TlbOk (t.map TlbEntry.invalidate) := by
  intro i hv
  rw [get_map] at hv
  simp [TlbEntry.invalidate] at hv

theorem tlbOk_replicate_invalid : TlbOk (Vector.replicate Config.tlbSize (TlbEntry.invalid aw)) := by
  intro i hv
  simp [Vector.get_eq_getElem, TlbEntry.invalid] at hv

/-- The seeding loop keeps R32, at any width. -/
theorem tlbOk_seedLoop (flags : BitVec 3) : TlbOk (seedLoop aw flags) := by
  unfold seedLoop
  generalize List.range Config.seedCount = l
  have : ∀ t : Tlb aw, TlbOk t →
      TlbOk (l.foldl (fun t n => tlbInsert t (pageAddress aw n) (pageAddress aw n) flags) t) := by
    induction l with
    | nil => intro t h; exact h
    | cons n rest ih => intro t h; exact ih _ (tlbOk_tlbInsert h _ _)
  exact this _ tlbOk_replicate_invalid

/-! ## Translate -/

/-- Everything a translation can do (R502 to R504): a hit or a miss. -/
theorem translate_cases (v : BitVec aw) (f : Bool) (m : MemorySystem aw) :
    (((m.tlb f).get (tlbIndex v)).hits v = true ∧
      translate v f m = (((m.tlb f).get (tlbIndex v)).paddrBase ||| pageOffset v, countHit m)) ∨
    (((m.tlb f).get (tlbIndex v)).hits v = false ∧
      translate v f m = (v, (countMiss m).withTlb f (tlbInsert (m.tlb f) v v missFlags))) := by
  unfold translate
  cases h : ((m.tlb f).get (tlbIndex v)).hits v <;> simp [h]

@[simp] theorem translate_ramSize (v : BitVec aw) (f : Bool) (m : MemorySystem aw) :
    (translate v f m).2.ramSize = m.ramSize := by
  rcases translate_cases v f m with ⟨_, h⟩ | ⟨_, h⟩ <;> simp [h]

@[simp] theorem translate_ram (v : BitVec aw) (f : Bool) (m : MemorySystem aw) :
    (translate v f m).2.ram = m.ram := by
  rcases translate_cases v f m with ⟨_, h⟩ | ⟨_, h⟩ <;> simp [h]

@[simp] theorem translate_life (v : BitVec aw) (f : Bool) (m : MemorySystem aw) :
    (translate v f m).2.life = m.life := by
  rcases translate_cases v f m with ⟨_, h⟩ | ⟨_, h⟩ <;> simp [h]

/-- After a translation the page is resident at its index, in the TLB it used. -/
theorem translate_resident (v : BitVec aw) (f : Bool) (m : MemorySystem aw) :
    (((translate v f m).2.tlb f).get (tlbIndex v)).valid = true ∧
      (((translate v f m).2.tlb f).get (tlbIndex v)).vaddrTag = pageBase v := by
  rcases translate_cases v f m with ⟨hh, h⟩ | ⟨_, h⟩
  · rw [h]
    simpa [TlbEntry.hits] using hh
  · rw [h]
    simp [get_tlbInsert_same]

/-- A translation leaves every other entry of its TLB alone. -/
theorem translate_get_ne (v : BitVec aw) (f : Bool) (m : MemorySystem aw) {i : Fin Config.tlbSize}
    (hi : i ≠ tlbIndex v) : ((translate v f m).2.tlb f).get i = (m.tlb f).get i := by
  rcases translate_cases v f m with ⟨_, h⟩ | ⟨_, h⟩
  · simp [h]
  · simp [h, get_tlbInsert_ne _ _ _ _ hi]

/-- A translation leaves the other TLB alone (R508). -/
theorem translate_other_tlb (v : BitVec aw) (f : Bool) (m : MemorySystem aw) :
    (translate v f m).2.tlb (!f) = m.tlb (!f) := by
  rcases translate_cases v f m with ⟨_, h⟩ | ⟨_, h⟩ <;> simp [h]

/-! ## The invariant -/

theorem MemorySystem.Inv.tlbOk {m : MemorySystem aw} (h : m.Inv) (f : Bool) : TlbOk (m.tlb f) := by
  cases f
  · exact h.dtlbOk
  · exact h.itlbOk

/-- The invariant after TLBs and counters changed and the data did not. -/
theorem inv_of_sameData {m m' : MemorySystem aw} (h : m.Inv) (hs : m'.ramSize = m.ramSize) (hr : m'.ram = m.ram)
    (ht : ∀ f, TlbOk (m'.tlb f)) : m'.Inv :=
  { itlbOk := ht true
    dtlbOk := ht false
    ramCanonical := by rw [hr]; exact h.ramCanonical
    ramBelow := by rw [hs, hr]; exact h.ramBelow
    sizeBelow := by rw [hs]; exact h.sizeBelow }

theorem inv_translate {m : MemorySystem aw} (h : m.Inv) (v : BitVec aw) (f : Bool) : (translate v f m).2.Inv := by
  refine inv_of_sameData h (translate_ramSize v f m) (translate_ram v f m) fun g => ?_
  rcases translate_cases v f m with ⟨_, e⟩ | ⟨_, e⟩
  · rw [e]
    simpa using h.tlbOk g
  · rw [e]
    by_cases hg : g = f
    · subst hg
      simpa using tlbOk_tlbInsert (h.tlbOk g) v missFlags
    · have : g = !f := by cases g <;> cases f <;> simp_all
      subst this
      simpa using h.tlbOk (!f)

end Sys2Proof.Machine
end

