-- ==== Sys2Proof/Laws/Access.lean ====
section
/-! SUPPORT. The laws of the sized accessors and of the memory port: everything an access can do. -/

namespace Sys2Proof.Machine

variable {aw : Nat}

/-- Everything a read can do (47_mem_access_ops.md R530): one translation, then zero or the bytes of RAM. -/
theorem accessRead_eq (n : Nat) (v : BitVec aw) (m : MemorySystem aw) :
    accessRead n v m =
      (if (translate v false m).1.toNat + n - 1 ≥ m.ramSize then 0
        else memRead m.ram (translate v false m).1.toNat n, (translate v false m).2) := by
  unfold accessRead outOfBounds
  by_cases h : (translate v false m).1.toNat + n - 1 ≥ m.ramSize <;> simp [h]

/-- Everything a write can do (R530): one translation, then nothing or the bytes of RAM. -/
theorem accessWrite_eq (n : Nat) (v : BitVec aw) (x : BitVec (8 * n)) (m : MemorySystem aw) :
    accessWrite n v x m =
      { (translate v false m).2 with
        ram :=
          if (translate v false m).1.toNat + n - 1 ≥ m.ramSize then m.ram
          else memWrite m.ram (translate v false m).1.toNat n x } := by
  unfold accessWrite outOfBounds
  by_cases h : (translate v false m).1.toNat + n - 1 ≥ m.ramSize
  · have h' : (translate v false m).1.toNat + n - 1 ≥ (translate v false m).2.ramSize := by
      rw [translate_ramSize]
      exact h
    rw [if_pos h, ← translate_ram v false m]
    simp only [h', decide_true, if_true]
  · simp [h]

theorem inv_accessRead {m : MemorySystem aw} (h : m.Inv) (n : Nat) (v : BitVec aw) : (accessRead n v m).2.Inv := by
  rw [accessRead_eq]
  exact inv_translate h v false

theorem inv_accessWrite {m : MemorySystem aw} (h : m.Inv) (n : Nat) (v : BitVec aw) (x : BitVec (8 * n)) :
    (accessWrite n v x m).Inv := by
  have ht := inv_translate h v false
  rw [accessWrite_eq]
  split
  · rw [← translate_ram v false m]
    exact ht
  · rename_i hb
    exact
      { itlbOk := ht.itlbOk
        dtlbOk := ht.dtlbOk
        ramCanonical := wf_memWrite h.ramCanonical _ _ _
        ramBelow := by
          rw [translate_ramSize]
          by_cases hn : n = 0
          · subst hn
            exact h.ramBelow
          · exact below_memWrite h.ramBelow (by omega) x
        sizeBelow := ht.sizeBelow }

theorem life_accessRead (n : Nat) (v : BitVec aw) (m : MemorySystem aw) :
    (accessRead n v m).2.life = m.life := by
  rw [accessRead_eq]
  exact translate_life v false m

theorem life_accessWrite (n : Nat) (v : BitVec aw) (x : BitVec (8 * n)) (m : MemorySystem aw) :
    (accessWrite n v x m).life = m.life := by
  rw [accessWrite_eq]
  exact translate_life v false m

/-- Everything the memory port can do for a request: it answers, with the memory system after the operation, or it
refuses the operation, and nothing else. -/
theorem serveMem_cases (op : MemOp Config.addressWidth) (s : State) :
    (∃ r m, s.mem.perform op = .ok (r, m) ∧ serveMem op s = .next (State.respond (.mem r) { s with mem := m })) ∨
    (∃ e, s.mem.perform op = .error e ∧ serveMem op s = .refused e) := by
  unfold serveMem
  cases h : s.mem.perform op with
  | ok p => exact .inl ⟨p.1, p.2, rfl, rfl⟩
  | error e => exact .inr ⟨e, rfl, rfl⟩

end Sys2Proof.Machine
end

