-- ==== Sys2Proof/Laws/Decode.lean ====
section
/-! SUPPORT. The laws of the decoder. Of each layout: the number it stands for, that the record of its format (the
generic extraction of R148 to R160) is the record written over its operands, that its operands are read back from
it, and that a word is the layout of its own fields. Of the masks: the number a masked word stands for. Of the
lookup: that it does not see what the rows carry beside their entry. -/

namespace Sys2Proof

open Machine

set_option linter.unusedSimpArgs false

/-! ## Numbers of words -/

theorem toNat_append_add {n m : Nat} (x : BitVec n) (y : BitVec m) : (x ++ y).toNat = x.toNat * 2 ^ m + y.toNat := by
  rw [BitVec.toNat_append, ← Nat.shiftLeft_add_eq_or_of_lt y.isLt, Nat.shiftLeft_eq]

theorem toNat_extract (raw : Word) (start len : Nat) :
    (raw.extractLsb' start len).toNat = raw.toNat / 2 ^ start % 2 ^ len := by
  rw [BitVec.extractLsb'_toNat, Nat.shiftRight_eq_div_pow]

theorem toNat_ofBool_bit {w : Nat} (x : BitVec w) (i : Nat) :
    (BitVec.ofBool (x.getLsbD i)).toNat = x.toNat / 2 ^ i % 2 := by
  rw [BitVec.getLsbD, Nat.testBit_eq_decide_div_mod_eq]
  rcases Nat.mod_two_eq_zero_or_one (x.toNat / 2 ^ i) with h | h <;> simp [h]

theorem bool_eq_of_toNat {a b : Bool} (h : (BitVec.ofBool a).toNat = (BitVec.ofBool b).toNat) : a = b := by
  revert h
  cases a <;> cases b <;> simp

/-- R112 as a concatenation: `spr[4:0] = ra`, `spr[9:5] = rb`. -/
theorem fieldSpr_eq (raw : Word) : fieldSpr raw = (field15to11 raw ++ field20to16 raw : BitVec (5 + 5)) := by
  apply BitVec.eq_of_getLsbD_eq
  intro i hi
  unfold fieldSpr
  rw [BitVec.getLsbD_append, BitVec.getLsbD_or]
  simp only [BitVec.getLsbD_shiftLeft, BitVec.getLsbD_setWidth]
  have hge : ∀ j, 5 ≤ j → (field20to16 raw).getLsbD j = false := fun j hj => BitVec.getLsbD_of_ge _ _ hj
  by_cases h5 : i < 5
  · have : i < 10 := by omega
    simp [h5, this]
  · have h1 : i < 10 := hi
    have h2 : i - 5 < 10 := by omega
    simp [h5, h1, h2, hge i (by omega)]

theorem toNat_fieldSpr (raw : Word) : (fieldSpr raw).toNat = raw.toNat / 2 ^ 11 % 2 ^ 5 * 2 ^ 5 + raw.toNat / 2 ^ 16 % 2 ^ 5 := by
  rw [fieldSpr_eq]
  show ((field15to11 raw ++ field20to16 raw : BitVec (5 + 5))).toNat = _
  rw [toNat_append_add]
  simp only [field15to11, field20to16, toNat_extract]

theorem extractLow_fieldSpr (raw : Word) : (fieldSpr raw).extractLsb' 0 5 = field20to16 raw := by
  apply BitVec.eq_of_toNat_eq
  rw [BitVec.extractLsb'_toNat, toNat_fieldSpr, field20to16, toNat_extract]
  omega

theorem extractHigh_fieldSpr (raw : Word) : (fieldSpr raw).extractLsb' 5 5 = field15to11 raw := by
  apply BitVec.eq_of_toNat_eq
  rw [BitVec.extractLsb'_toNat, toNat_fieldSpr, field15to11, toNat_extract, Nat.shiftRight_eq_div_pow]
  have hb : raw.toNat / 2 ^ 16 % 2 ^ 5 < 2 ^ 5 := Nat.mod_lt _ (by decide)
  have ha : raw.toNat / 2 ^ 11 % 2 ^ 5 < 2 ^ 5 := Nat.mod_lt _ (by decide)
  generalize raw.toNat / 2 ^ 16 % 2 ^ 5 = b at hb
  generalize raw.toNat / 2 ^ 11 % 2 ^ 5 = a at ha
  omega

theorem toNat_spr (spr : BitVec 10) :
    spr.toNat = (spr.extractLsb' 5 5).toNat * 2 ^ 5 + (spr.extractLsb' 0 5).toNat := by
  rw [BitVec.extractLsb'_toNat, BitVec.extractLsb'_toNat, Nat.shiftRight_eq_div_pow]
  omega

/-- The DS displacement as a number (R154). -/
theorem toNat_fieldDsSimm (raw : Word) : (fieldDsSimm raw).toNat = raw.toNat / 2 ^ 2 % 2 ^ 14 * 2 ^ 2 := by
  have h : fieldDsSimm raw = (raw.extractLsb' 2 14 ++ 0b00#2 : BitVec (14 + 2)) := by
    apply BitVec.eq_of_getLsbD_eq
    intro i hi
    unfold fieldDsSimm fieldImm
    rw [BitVec.getLsbD_append, BitVec.getLsbD_and]
    simp only [BitVec.getLsbD_extractLsb']
    interval_cases i <;> simp
  rw [h]
  show ((raw.extractLsb' 2 14 ++ 0b00#2 : BitVec (14 + 2))).toNat = _
  rw [toNat_append_add, toNat_extract]
  simp

/-! ## D -/

theorem toNat_layoutD (op : BitVec 6) (rt ra : RegIndex) (imm : BitVec 16) :
    (layoutD op rt ra imm).toNat =
      op.toNat * 2 ^ 26 + rt.toNat * 2 ^ 21 + ra.toNat * 2 ^ 16 + imm.toNat := by
  show (op ++ rt ++ ra ++ imm : BitVec (6 + 5 + 5 + 16)).toNat = _
  simp only [toNat_append_add]
  omega

/-- The generic extraction on the layout is the record over the operands. -/
theorem recordOfFormat_layoutD (op : BitVec 6) (rt ra : RegIndex) (imm : BitVec 16) :
    recordOfFormat .d (layoutD op rt ra imm) = recordD op rt ra imm := by
  simp only [recordOfFormat, withFormatFields, withExtendedOpcode, withCommonFields, recordUnknown, recordD]
  congr 1
  all_goals first
    | (apply BitVec.eq_of_toNat_eq
       simp only [fieldPrimaryOpcode, fieldExtendedOpcode, field25to21, field20to16, field15to11, field10to6, field5to1, fieldImm,
      fieldBit0, fieldBit1, fieldBit10,
         toNat_extract, BitVec.extractLsb'_toNat, Nat.shiftRight_eq_div_pow, toNat_layoutD]
       omega)
    | (apply bool_eq_of_toNat
       simp only [fieldPrimaryOpcode, fieldExtendedOpcode, field25to21, field20to16, field15to11, field10to6, field5to1, fieldImm,
      fieldBit0, fieldBit1, fieldBit10,
         toNat_ofBool_bit, toNat_layoutD]
       omega)

/-- The operands are read back from the layout. -/
theorem buildD_layoutD (c : RegIndex → RegIndex → BitVec 16 → Instr) (op : BitVec 6) (rt ra : RegIndex) (imm : BitVec 16) :
    buildD c (layoutD op rt ra imm) = c rt ra imm := by
  unfold buildD
  congr 1
  all_goals
    apply BitVec.eq_of_toNat_eq
    simp only [fieldPrimaryOpcode, fieldExtendedOpcode, field25to21, field20to16, field15to11, field10to6, field5to1, fieldImm,
      fieldBit0, fieldBit1, fieldBit10,
      toNat_extract, toNat_layoutD]
    omega

/-- A word is the layout of its own fields. -/
theorem layoutD_fields (raw : Word) :
    layoutD (fieldPrimaryOpcode raw) (field25to21 raw) (field20to16 raw) (fieldImm raw) = raw := by
  apply BitVec.eq_of_toNat_eq
  rw [toNat_layoutD]
  simp only [fieldPrimaryOpcode, fieldExtendedOpcode, field25to21, field20to16, field15to11, field10to6, field5to1, fieldImm,
    fieldBit0, fieldBit1, fieldBit10, toNat_fieldSpr, toNat_extract, toNat_ofBool_bit]
  omega

/-! ## B -/

theorem toNat_layoutB (op : BitVec 6) (bt ba : RegIndex) (bd : BitVec 14) (aa lk : Bool) :
    (layoutB op bt ba bd aa lk).toNat =
      op.toNat * 2 ^ 26 + bt.toNat * 2 ^ 21 + ba.toNat * 2 ^ 16 + bd.toNat * 2 ^ 2 + (BitVec.ofBool aa).toNat * 2 ^ 1 + (BitVec.ofBool lk).toNat := by
  show (op ++ bt ++ ba ++ bd ++ BitVec.ofBool aa ++ BitVec.ofBool lk : BitVec (6 + 5 + 5 + 14 + 1 + 1)).toNat = _
  simp only [toNat_append_add]
  omega

/-- The generic extraction on the layout is the record over the operands. -/
theorem recordOfFormat_layoutB (op : BitVec 6) (bt ba : RegIndex) (bd : BitVec 14) (aa lk : Bool) :
    recordOfFormat .b (layoutB op bt ba bd aa lk) = recordB op bt ba bd aa lk := by
  have himm : (bd ++ BitVec.ofBool aa ++ BitVec.ofBool lk : BitVec 16).toNat =
      bd.toNat * 2 ^ 2 + (BitVec.ofBool aa).toNat * 2 ^ 1 + (BitVec.ofBool lk).toNat := by
    show (bd ++ BitVec.ofBool aa ++ BitVec.ofBool lk : BitVec (14 + 1 + 1)).toNat = _
    simp only [toNat_append_add]
    omega
  have haddr : (layoutB op bt ba bd aa lk).extractLsb' 2 14 = bd := by
    apply BitVec.eq_of_toNat_eq
    simp only [toNat_extract, toNat_layoutB]
    omega
  have hext : fieldAddrB (layoutB op bt ba bd aa lk) = (bd ++ 0b00#2).signExtend 32 := by
    rw [fieldAddrB, haddr]
  simp only [recordOfFormat, withFormatFields, withExtendedOpcode, withCommonFields, recordUnknown, recordB, hext]
  congr 1
  all_goals first
    | (apply BitVec.eq_of_toNat_eq
       simp only [fieldPrimaryOpcode, fieldExtendedOpcode, field25to21, field20to16, field15to11, field10to6, field5to1, fieldImm,
      fieldBit0, fieldBit1, fieldBit10,
         toNat_extract, BitVec.extractLsb'_toNat, Nat.shiftRight_eq_div_pow, toNat_layoutB, himm]
       omega)
    | (apply bool_eq_of_toNat
       simp only [fieldPrimaryOpcode, fieldExtendedOpcode, field25to21, field20to16, field15to11, field10to6, field5to1, fieldImm,
      fieldBit0, fieldBit1, fieldBit10,
         toNat_ofBool_bit, toNat_layoutB]
       omega)

/-- The operands are read back from the layout. -/
theorem buildB_layoutB (c : RegIndex → RegIndex → BitVec 14 → Bool → Bool → Instr) (op : BitVec 6) (bt ba : RegIndex) (bd : BitVec 14) (aa lk : Bool) :
    buildB c (layoutB op bt ba bd aa lk) = c bt ba bd aa lk := by
  unfold buildB
  congr 1
  all_goals first
    | (apply BitVec.eq_of_toNat_eq
       simp only [fieldPrimaryOpcode, fieldExtendedOpcode, field25to21, field20to16, field15to11, field10to6, field5to1, fieldImm,
      fieldBit0, fieldBit1, fieldBit10, toNat_fieldSpr,
         toNat_extract, toNat_layoutB]
       omega)
    | (apply bool_eq_of_toNat
       simp only [fieldPrimaryOpcode, fieldExtendedOpcode, field25to21, field20to16, field15to11, field10to6, field5to1, fieldImm,
      fieldBit0, fieldBit1, fieldBit10,
         toNat_ofBool_bit, toNat_layoutB]
       omega)

/-- A word is the layout of its own fields. -/
theorem layoutB_fields (raw : Word) :
    layoutB (fieldPrimaryOpcode raw) (field25to21 raw) (field20to16 raw) (raw.extractLsb' 2 14) (fieldBit1 raw) (fieldBit0 raw) = raw := by
  apply BitVec.eq_of_toNat_eq
  rw [toNat_layoutB]
  simp only [fieldPrimaryOpcode, fieldExtendedOpcode, field25to21, field20to16, field15to11, field10to6, field5to1, fieldImm,
    fieldBit0, fieldBit1, fieldBit10, toNat_fieldSpr, toNat_extract, toNat_ofBool_bit]
  omega

/-! ## SC -/

theorem toNat_layoutSc (op : BitVec 6) (low : BitVec 26) :
    (layoutSc op low).toNat =
      op.toNat * 2 ^ 26 + low.toNat := by
  show (op ++ low : BitVec (6 + 26)).toNat = _
  simp only [toNat_append_add]

/-- The generic extraction on the layout is the record over the operands. -/
theorem recordOfFormat_layoutSc (op : BitVec 6) (low : BitVec 26) :
    recordOfFormat .sc (layoutSc op low) = recordSc op low := by
  simp only [recordOfFormat, withFormatFields, withExtendedOpcode, withCommonFields, recordUnknown, recordSc]
  congr 1
  all_goals first
    | (apply BitVec.eq_of_toNat_eq
       simp only [fieldPrimaryOpcode, fieldExtendedOpcode, field25to21, field20to16, field15to11, field10to6, field5to1, fieldImm,
      fieldBit0, fieldBit1, fieldBit10,
         toNat_extract, BitVec.extractLsb'_toNat, Nat.shiftRight_eq_div_pow, toNat_layoutSc]
       omega)
    | (apply bool_eq_of_toNat
       simp only [fieldPrimaryOpcode, fieldExtendedOpcode, field25to21, field20to16, field15to11, field10to6, field5to1, fieldImm,
      fieldBit0, fieldBit1, fieldBit10,
         toNat_ofBool_bit, toNat_layoutSc]
       omega)

/-- The operands are read back from the layout. -/
theorem buildSc_layoutSc (c : BitVec 26 → Instr) (op : BitVec 6) (low : BitVec 26) :
    buildSc c (layoutSc op low) = c low := by
  unfold buildSc
  congr 1
  all_goals
    apply BitVec.eq_of_toNat_eq
    simp only [fieldPrimaryOpcode, fieldExtendedOpcode, field25to21, field20to16, field15to11, field10to6, field5to1, fieldImm,
      fieldBit0, fieldBit1, fieldBit10,
      toNat_extract, toNat_layoutSc]
    omega

/-- A word is the layout of its own fields. -/
theorem layoutSc_fields (raw : Word) :
    layoutSc (fieldPrimaryOpcode raw) (raw.extractLsb' 0 26) = raw := by
  apply BitVec.eq_of_toNat_eq
  rw [toNat_layoutSc]
  simp only [fieldPrimaryOpcode, fieldExtendedOpcode, field25to21, field20to16, field15to11, field10to6, field5to1, fieldImm,
    fieldBit0, fieldBit1, fieldBit10, toNat_fieldSpr, toNat_extract, toNat_ofBool_bit]
  omega

/-! ## I -/

theorem toNat_layoutI (op : BitVec 6) (li : BitVec 24) (aa lk : Bool) :
    (layoutI op li aa lk).toNat =
      op.toNat * 2 ^ 26 + li.toNat * 2 ^ 2 + (BitVec.ofBool aa).toNat * 2 ^ 1 + (BitVec.ofBool lk).toNat := by
  show (op ++ li ++ BitVec.ofBool aa ++ BitVec.ofBool lk : BitVec (6 + 24 + 1 + 1)).toNat = _
  simp only [toNat_append_add]
  omega

/-- The generic extraction on the layout is the record over the operands. -/
theorem recordOfFormat_layoutI (op : BitVec 6) (li : BitVec 24) (aa lk : Bool) :
    recordOfFormat .i (layoutI op li aa lk) = recordI op li aa lk := by
  have himm : (li.extractLsb' 0 14 ++ BitVec.ofBool aa ++ BitVec.ofBool lk : BitVec 16).toNat =
      (li.toNat % 2 ^ 14) * 2 ^ 2 + (BitVec.ofBool aa).toNat * 2 ^ 1 + (BitVec.ofBool lk).toNat := by
    show (li.extractLsb' 0 14 ++ BitVec.ofBool aa ++ BitVec.ofBool lk : BitVec (14 + 1 + 1)).toNat = _
    simp only [toNat_append_add, BitVec.extractLsb'_toNat, Nat.shiftRight_eq_div_pow]
    omega
  have haddr : (layoutI op li aa lk).extractLsb' 2 24 = li := by
    apply BitVec.eq_of_toNat_eq
    simp only [toNat_extract, toNat_layoutI]
    omega
  have hext : fieldAddrI (layoutI op li aa lk) = (li ++ 0b00#2).signExtend 32 := by
    rw [fieldAddrI, haddr]
  simp only [recordOfFormat, withFormatFields, withExtendedOpcode, withCommonFields, recordUnknown, recordI, hext]
  congr 1
  all_goals first
    | (apply BitVec.eq_of_toNat_eq
       simp only [fieldPrimaryOpcode, fieldExtendedOpcode, field25to21, field20to16, field15to11, field10to6, field5to1, fieldImm,
      fieldBit0, fieldBit1, fieldBit10,
         toNat_extract, BitVec.extractLsb'_toNat, Nat.shiftRight_eq_div_pow, toNat_layoutI, himm]
       omega)
    | (apply bool_eq_of_toNat
       simp only [fieldPrimaryOpcode, fieldExtendedOpcode, field25to21, field20to16, field15to11, field10to6, field5to1, fieldImm,
      fieldBit0, fieldBit1, fieldBit10,
         toNat_ofBool_bit, toNat_layoutI]
       omega)

/-- The operands are read back from the layout. -/
theorem buildI_layoutI (c : BitVec 24 → Bool → Bool → Instr) (op : BitVec 6) (li : BitVec 24) (aa lk : Bool) :
    buildI c (layoutI op li aa lk) = c li aa lk := by
  unfold buildI
  congr 1
  all_goals first
    | (apply BitVec.eq_of_toNat_eq
       simp only [fieldPrimaryOpcode, fieldExtendedOpcode, field25to21, field20to16, field15to11, field10to6, field5to1, fieldImm,
      fieldBit0, fieldBit1, fieldBit10, toNat_fieldSpr,
         toNat_extract, toNat_layoutI]
       omega)
    | (apply bool_eq_of_toNat
       simp only [fieldPrimaryOpcode, fieldExtendedOpcode, field25to21, field20to16, field15to11, field10to6, field5to1, fieldImm,
      fieldBit0, fieldBit1, fieldBit10,
         toNat_ofBool_bit, toNat_layoutI]
       omega)

/-- A word is the layout of its own fields. -/
theorem layoutI_fields (raw : Word) :
    layoutI (fieldPrimaryOpcode raw) (raw.extractLsb' 2 24) (fieldBit1 raw) (fieldBit0 raw) = raw := by
  apply BitVec.eq_of_toNat_eq
  rw [toNat_layoutI]
  simp only [fieldPrimaryOpcode, fieldExtendedOpcode, field25to21, field20to16, field15to11, field10to6, field5to1, fieldImm,
    fieldBit0, fieldBit1, fieldBit10, toNat_fieldSpr, toNat_extract, toNat_ofBool_bit]
  omega

/-! ## M -/

theorem toNat_layoutM (op : BitVec 6) (rt ra sh mb me : RegIndex) (rc : Bool) :
    (layoutM op rt ra sh mb me rc).toNat =
      op.toNat * 2 ^ 26 + rt.toNat * 2 ^ 21 + ra.toNat * 2 ^ 16 + sh.toNat * 2 ^ 11 + mb.toNat * 2 ^ 6 + me.toNat * 2 ^ 1 + (BitVec.ofBool rc).toNat := by
  show (op ++ rt ++ ra ++ sh ++ mb ++ me ++ BitVec.ofBool rc : BitVec (6 + 5 + 5 + 5 + 5 + 5 + 1)).toNat = _
  simp only [toNat_append_add]
  omega

/-- The generic extraction on the layout is the record over the operands. -/
theorem recordOfFormat_layoutM (op : BitVec 6) (rt ra sh mb me : RegIndex) (rc : Bool) :
    recordOfFormat .m (layoutM op rt ra sh mb me rc) = recordM op rt ra sh mb me rc := by
  have himm : (sh ++ mb ++ me ++ BitVec.ofBool rc : BitVec 16).toNat =
      sh.toNat * 2 ^ 11 + mb.toNat * 2 ^ 6 + me.toNat * 2 ^ 1 + (BitVec.ofBool rc).toNat := by
    show (sh ++ mb ++ me ++ BitVec.ofBool rc : BitVec (5 + 5 + 5 + 1)).toNat = _
    simp only [toNat_append_add]
    omega
  simp only [recordOfFormat, withFormatFields, withExtendedOpcode, withCommonFields, recordUnknown, recordM]
  congr 1
  all_goals first
    | (apply BitVec.eq_of_toNat_eq
       simp only [fieldPrimaryOpcode, fieldExtendedOpcode, field25to21, field20to16, field15to11, field10to6, field5to1, fieldImm,
      fieldBit0, fieldBit1, fieldBit10,
         toNat_extract, BitVec.extractLsb'_toNat, Nat.shiftRight_eq_div_pow, toNat_layoutM, himm]
       omega)
    | (apply bool_eq_of_toNat
       simp only [fieldPrimaryOpcode, fieldExtendedOpcode, field25to21, field20to16, field15to11, field10to6, field5to1, fieldImm,
      fieldBit0, fieldBit1, fieldBit10,
         toNat_ofBool_bit, toNat_layoutM]
       omega)

/-- The operands are read back from the layout. -/
theorem buildM_layoutM (c : RegIndex → RegIndex → RegIndex → RegIndex → RegIndex → Bool → Instr) (op : BitVec 6) (rt ra sh mb me : RegIndex) (rc : Bool) :
    buildM c (layoutM op rt ra sh mb me rc) = c rt ra sh mb me rc := by
  unfold buildM
  congr 1
  all_goals first
    | (apply BitVec.eq_of_toNat_eq
       simp only [fieldPrimaryOpcode, fieldExtendedOpcode, field25to21, field20to16, field15to11, field10to6, field5to1, fieldImm,
      fieldBit0, fieldBit1, fieldBit10, toNat_fieldSpr,
         toNat_extract, toNat_layoutM]
       omega)
    | (apply bool_eq_of_toNat
       simp only [fieldPrimaryOpcode, fieldExtendedOpcode, field25to21, field20to16, field15to11, field10to6, field5to1, fieldImm,
      fieldBit0, fieldBit1, fieldBit10,
         toNat_ofBool_bit, toNat_layoutM]
       omega)

/-- A word is the layout of its own fields. -/
theorem layoutM_fields (raw : Word) :
    layoutM (fieldPrimaryOpcode raw) (field25to21 raw) (field20to16 raw) (field15to11 raw) (field10to6 raw) (field5to1 raw) (fieldBit0 raw) = raw := by
  apply BitVec.eq_of_toNat_eq
  rw [toNat_layoutM]
  simp only [fieldPrimaryOpcode, fieldExtendedOpcode, field25to21, field20to16, field15to11, field10to6, field5to1, fieldImm,
    fieldBit0, fieldBit1, fieldBit10, toNat_fieldSpr, toNat_extract, toNat_ofBool_bit]
  omega

/-! ## MD -/

theorem toNat_layoutMd (op : BitVec 6) (sel : BitVec 3) (rt ra rb : RegIndex) (mid : BitVec 6) (low : BitVec 2) :
    (layoutMd op sel rt ra rb mid low).toNat =
      op.toNat * 2 ^ 26 + rt.toNat * 2 ^ 21 + ra.toNat * 2 ^ 16 + rb.toNat * 2 ^ 11 + mid.toNat * 2 ^ 5 + sel.toNat * 2 ^ 2 + low.toNat := by
  show (op ++ rt ++ ra ++ rb ++ mid ++ sel ++ low : BitVec (6 + 5 + 5 + 5 + 6 + 3 + 2)).toNat = _
  simp only [toNat_append_add]
  omega

/-- The generic extraction on the layout is the record over the operands. -/
theorem recordOfFormat_layoutMd (op : BitVec 6) (sel : BitVec 3) (rt ra rb : RegIndex) (mid : BitVec 6) (low : BitVec 2) :
    recordOfFormat .md (layoutMd op sel rt ra rb mid low) = recordMd op sel rt ra rb mid low := by
  have himm : (rb ++ mid ++ sel ++ low : BitVec 16).toNat =
      rb.toNat * 2 ^ 11 + mid.toNat * 2 ^ 5 + sel.toNat * 2 ^ 2 + low.toNat := by
    show (rb ++ mid ++ sel ++ low : BitVec (5 + 6 + 3 + 2)).toNat = _
    simp only [toNat_append_add]
    omega
  simp only [recordOfFormat, withFormatFields, withExtendedOpcode, withCommonFields, recordUnknown, recordMd]
  congr 1
  all_goals first
    | (apply BitVec.eq_of_toNat_eq
       simp only [fieldPrimaryOpcode, fieldExtendedOpcode, field25to21, field20to16, field15to11, field10to6, field5to1, fieldImm,
      fieldBit0, fieldBit1, fieldBit10,
         toNat_extract, BitVec.extractLsb'_toNat, Nat.shiftRight_eq_div_pow, toNat_layoutMd, himm]
       omega)
    | (apply bool_eq_of_toNat
       simp only [fieldPrimaryOpcode, fieldExtendedOpcode, field25to21, field20to16, field15to11, field10to6, field5to1, fieldImm,
      fieldBit0, fieldBit1, fieldBit10,
         toNat_ofBool_bit, toNat_layoutMd]
       omega)

/-- The operands are read back from the layout. -/
theorem buildMd_layoutMd (c : RegIndex → RegIndex → RegIndex → BitVec 6 → BitVec 2 → Instr) (op : BitVec 6) (sel : BitVec 3) (rt ra rb : RegIndex) (mid : BitVec 6) (low : BitVec 2) :
    buildMd c (layoutMd op sel rt ra rb mid low) = c rt ra rb mid low := by
  unfold buildMd
  congr 1
  all_goals
    apply BitVec.eq_of_toNat_eq
    simp only [fieldPrimaryOpcode, fieldExtendedOpcode, field25to21, field20to16, field15to11, field10to6, field5to1, fieldImm,
      fieldBit0, fieldBit1, fieldBit10,
      toNat_extract, toNat_layoutMd]
    omega

/-- A word is the layout of its own fields. -/
theorem layoutMd_fields (raw : Word) :
    layoutMd (fieldPrimaryOpcode raw) (raw.extractLsb' 2 3) (field25to21 raw) (field20to16 raw) (field15to11 raw) (raw.extractLsb' 5 6) (raw.extractLsb' 0 2) = raw := by
  apply BitVec.eq_of_toNat_eq
  rw [toNat_layoutMd]
  simp only [fieldPrimaryOpcode, fieldExtendedOpcode, field25to21, field20to16, field15to11, field10to6, field5to1, fieldImm,
    fieldBit0, fieldBit1, fieldBit10, toNat_fieldSpr, toNat_extract, toNat_ofBool_bit]
  omega

/-! ## MDS -/

theorem toNat_layoutMds (op : BitVec 6) (sel : BitVec 4) (rt ra rb : RegIndex) (mid : BitVec 6) (rc : Bool) :
    (layoutMds op sel rt ra rb mid rc).toNat =
      op.toNat * 2 ^ 26 + rt.toNat * 2 ^ 21 + ra.toNat * 2 ^ 16 + rb.toNat * 2 ^ 11 + mid.toNat * 2 ^ 5 + sel.toNat * 2 ^ 1 + (BitVec.ofBool rc).toNat := by
  show (op ++ rt ++ ra ++ rb ++ mid ++ sel ++ BitVec.ofBool rc : BitVec (6 + 5 + 5 + 5 + 6 + 4 + 1)).toNat = _
  simp only [toNat_append_add]
  omega

/-- The generic extraction on the layout is the record over the operands. -/
theorem recordOfFormat_layoutMds (op : BitVec 6) (sel : BitVec 4) (rt ra rb : RegIndex) (mid : BitVec 6) (rc : Bool) :
    recordOfFormat .mds (layoutMds op sel rt ra rb mid rc) = recordMds op sel rt ra rb mid rc := by
  have himm : (rb ++ mid ++ sel ++ BitVec.ofBool rc : BitVec 16).toNat =
      rb.toNat * 2 ^ 11 + mid.toNat * 2 ^ 5 + sel.toNat * 2 ^ 1 + (BitVec.ofBool rc).toNat := by
    show (rb ++ mid ++ sel ++ BitVec.ofBool rc : BitVec (5 + 6 + 4 + 1)).toNat = _
    simp only [toNat_append_add]
    omega
  simp only [recordOfFormat, withFormatFields, withExtendedOpcode, withCommonFields, recordUnknown, recordMds]
  congr 1
  all_goals first
    | (apply BitVec.eq_of_toNat_eq
       simp only [fieldPrimaryOpcode, fieldExtendedOpcode, field25to21, field20to16, field15to11, field10to6, field5to1, fieldImm,
      fieldBit0, fieldBit1, fieldBit10,
         toNat_extract, BitVec.extractLsb'_toNat, Nat.shiftRight_eq_div_pow, toNat_layoutMds, himm]
       omega)
    | (apply bool_eq_of_toNat
       simp only [fieldPrimaryOpcode, fieldExtendedOpcode, field25to21, field20to16, field15to11, field10to6, field5to1, fieldImm,
      fieldBit0, fieldBit1, fieldBit10,
         toNat_ofBool_bit, toNat_layoutMds]
       omega)

/-- The operands are read back from the layout. -/
theorem buildMds_layoutMds (c : RegIndex → RegIndex → RegIndex → BitVec 6 → Bool → Instr) (op : BitVec 6) (sel : BitVec 4) (rt ra rb : RegIndex) (mid : BitVec 6) (rc : Bool) :
    buildMds c (layoutMds op sel rt ra rb mid rc) = c rt ra rb mid rc := by
  unfold buildMds
  congr 1
  all_goals first
    | (apply BitVec.eq_of_toNat_eq
       simp only [fieldPrimaryOpcode, fieldExtendedOpcode, field25to21, field20to16, field15to11, field10to6, field5to1, fieldImm,
      fieldBit0, fieldBit1, fieldBit10, toNat_fieldSpr,
         toNat_extract, toNat_layoutMds]
       omega)
    | (apply bool_eq_of_toNat
       simp only [fieldPrimaryOpcode, fieldExtendedOpcode, field25to21, field20to16, field15to11, field10to6, field5to1, fieldImm,
      fieldBit0, fieldBit1, fieldBit10,
         toNat_ofBool_bit, toNat_layoutMds]
       omega)

/-- A word is the layout of its own fields. -/
theorem layoutMds_fields (raw : Word) :
    layoutMds (fieldPrimaryOpcode raw) (raw.extractLsb' 1 4) (field25to21 raw) (field20to16 raw) (field15to11 raw) (raw.extractLsb' 5 6) (fieldBit0 raw) = raw := by
  apply BitVec.eq_of_toNat_eq
  rw [toNat_layoutMds]
  simp only [fieldPrimaryOpcode, fieldExtendedOpcode, field25to21, field20to16, field15to11, field10to6, field5to1, fieldImm,
    fieldBit0, fieldBit1, fieldBit10, toNat_fieldSpr, toNat_extract, toNat_ofBool_bit]
  omega

/-! ## DS -/

theorem toNat_layoutDs (op : BitVec 6) (xo : BitVec 2) (rt ra : RegIndex) (ds : BitVec 14) :
    (layoutDs op xo rt ra ds).toNat =
      op.toNat * 2 ^ 26 + rt.toNat * 2 ^ 21 + ra.toNat * 2 ^ 16 + ds.toNat * 2 ^ 2 + xo.toNat := by
  show (op ++ rt ++ ra ++ ds ++ xo : BitVec (6 + 5 + 5 + 14 + 2)).toNat = _
  simp only [toNat_append_add]
  omega

/-- The generic extraction on the layout is the record over the operands. -/
theorem recordOfFormat_layoutDs (op : BitVec 6) (xo : BitVec 2) (rt ra : RegIndex) (ds : BitVec 14) :
    recordOfFormat .ds (layoutDs op xo rt ra ds) = recordDs op xo rt ra ds := by
  have himm : (ds ++ xo : BitVec 16).toNat =
      ds.toNat * 2 ^ 2 + xo.toNat := by
    show (ds ++ xo : BitVec (14 + 2)).toNat = _
    simp only [toNat_append_add]
  have hsimm : (ds ++ 0b00#2 : BitVec 16).toNat = ds.toNat * 2 ^ 2 := by
    show (ds ++ 0b00#2 : BitVec (14 + 2)).toNat = _
    simp only [toNat_append_add, BitVec.toNat_ofNat]
    omega
  simp only [recordOfFormat, withFormatFields, withExtendedOpcode, withCommonFields, recordUnknown, recordDs]
  congr 1
  all_goals first
    | (apply BitVec.eq_of_toNat_eq
       simp only [fieldPrimaryOpcode, fieldExtendedOpcode, field25to21, field20to16, field15to11, field10to6, field5to1, fieldImm,
      fieldBit0, fieldBit1, fieldBit10,
         toNat_extract, BitVec.extractLsb'_toNat, Nat.shiftRight_eq_div_pow, toNat_layoutDs, himm, hsimm, toNat_fieldDsSimm]
       omega)
    | (apply bool_eq_of_toNat
       simp only [fieldPrimaryOpcode, fieldExtendedOpcode, field25to21, field20to16, field15to11, field10to6, field5to1, fieldImm,
      fieldBit0, fieldBit1, fieldBit10,
         toNat_ofBool_bit, toNat_layoutDs]
       omega)

/-- The operands are read back from the layout. -/
theorem buildDs_layoutDs (c : RegIndex → RegIndex → BitVec 14 → Instr) (op : BitVec 6) (xo : BitVec 2) (rt ra : RegIndex) (ds : BitVec 14) :
    buildDs c (layoutDs op xo rt ra ds) = c rt ra ds := by
  unfold buildDs
  congr 1
  all_goals
    apply BitVec.eq_of_toNat_eq
    simp only [fieldPrimaryOpcode, fieldExtendedOpcode, field25to21, field20to16, field15to11, field10to6, field5to1, fieldImm,
      fieldBit0, fieldBit1, fieldBit10,
      toNat_extract, toNat_layoutDs]
    omega

/-- A word is the layout of its own fields. -/
theorem layoutDs_fields (raw : Word) :
    layoutDs (fieldPrimaryOpcode raw) (raw.extractLsb' 0 2) (field25to21 raw) (field20to16 raw) (raw.extractLsb' 2 14) = raw := by
  apply BitVec.eq_of_toNat_eq
  rw [toNat_layoutDs]
  simp only [fieldPrimaryOpcode, fieldExtendedOpcode, field25to21, field20to16, field15to11, field10to6, field5to1, fieldImm,
    fieldBit0, fieldBit1, fieldBit10, toNat_fieldSpr, toNat_extract, toNat_ofBool_bit]
  omega

/-! ## XL -/

theorem toNat_layoutXl (op : BitVec 6) (xo : BitVec 10) (bt ba bb : RegIndex) (lk : Bool) :
    (layoutXl op xo bt ba bb lk).toNat =
      op.toNat * 2 ^ 26 + bt.toNat * 2 ^ 21 + ba.toNat * 2 ^ 16 + bb.toNat * 2 ^ 11 + xo.toNat * 2 ^ 1 + (BitVec.ofBool lk).toNat := by
  show (op ++ bt ++ ba ++ bb ++ xo ++ BitVec.ofBool lk : BitVec (6 + 5 + 5 + 5 + 10 + 1)).toNat = _
  simp only [toNat_append_add]
  omega

/-- The generic extraction on the layout is the record over the operands. -/
theorem recordOfFormat_layoutXl (op : BitVec 6) (xo : BitVec 10) (bt ba bb : RegIndex) (lk : Bool) :
    recordOfFormat .xl (layoutXl op xo bt ba bb lk) = recordXl op xo bt ba bb lk := by
  have himm : (bb ++ xo ++ BitVec.ofBool lk : BitVec 16).toNat =
      bb.toNat * 2 ^ 11 + xo.toNat * 2 ^ 1 + (BitVec.ofBool lk).toNat := by
    show (bb ++ xo ++ BitVec.ofBool lk : BitVec (5 + 10 + 1)).toNat = _
    simp only [toNat_append_add]
    omega
  simp only [recordOfFormat, withFormatFields, withExtendedOpcode, withCommonFields, recordUnknown, recordXl]
  congr 1
  all_goals first
    | (apply BitVec.eq_of_toNat_eq
       simp only [fieldPrimaryOpcode, fieldExtendedOpcode, field25to21, field20to16, field15to11, field10to6, field5to1, fieldImm,
      fieldBit0, fieldBit1, fieldBit10,
         toNat_extract, BitVec.extractLsb'_toNat, Nat.shiftRight_eq_div_pow, toNat_layoutXl, himm]
       omega)
    | (apply bool_eq_of_toNat
       simp only [fieldPrimaryOpcode, fieldExtendedOpcode, field25to21, field20to16, field15to11, field10to6, field5to1, fieldImm,
      fieldBit0, fieldBit1, fieldBit10,
         toNat_ofBool_bit, toNat_layoutXl]
       omega)

/-- The operands are read back from the layout. -/
theorem buildXl_layoutXl (c : RegIndex → RegIndex → RegIndex → Bool → Instr) (op : BitVec 6) (xo : BitVec 10) (bt ba bb : RegIndex) (lk : Bool) :
    buildXl c (layoutXl op xo bt ba bb lk) = c bt ba bb lk := by
  unfold buildXl
  congr 1
  all_goals first
    | (apply BitVec.eq_of_toNat_eq
       simp only [fieldPrimaryOpcode, fieldExtendedOpcode, field25to21, field20to16, field15to11, field10to6, field5to1, fieldImm,
      fieldBit0, fieldBit1, fieldBit10, toNat_fieldSpr,
         toNat_extract, toNat_layoutXl]
       omega)
    | (apply bool_eq_of_toNat
       simp only [fieldPrimaryOpcode, fieldExtendedOpcode, field25to21, field20to16, field15to11, field10to6, field5to1, fieldImm,
      fieldBit0, fieldBit1, fieldBit10,
         toNat_ofBool_bit, toNat_layoutXl]
       omega)

/-- A word is the layout of its own fields. -/
theorem layoutXl_fields (raw : Word) :
    layoutXl (fieldPrimaryOpcode raw) (fieldExtendedOpcode raw) (field25to21 raw) (field20to16 raw) (field15to11 raw) (fieldBit0 raw) = raw := by
  apply BitVec.eq_of_toNat_eq
  rw [toNat_layoutXl]
  simp only [fieldPrimaryOpcode, fieldExtendedOpcode, field25to21, field20to16, field15to11, field10to6, field5to1, fieldImm,
    fieldBit0, fieldBit1, fieldBit10, toNat_fieldSpr, toNat_extract, toNat_ofBool_bit]
  omega

/-! ## X -/

theorem toNat_layoutX (op : BitVec 6) (xo : BitVec 10) (rt ra rb : RegIndex) (rc : Bool) :
    (layoutX op xo rt ra rb rc).toNat =
      op.toNat * 2 ^ 26 + rt.toNat * 2 ^ 21 + ra.toNat * 2 ^ 16 + rb.toNat * 2 ^ 11 + xo.toNat * 2 ^ 1 + (BitVec.ofBool rc).toNat := by
  show (op ++ rt ++ ra ++ rb ++ xo ++ BitVec.ofBool rc : BitVec (6 + 5 + 5 + 5 + 10 + 1)).toNat = _
  simp only [toNat_append_add]
  omega

/-- The generic extraction on the layout is the record over the operands. -/
theorem recordOfFormat_layoutX (op : BitVec 6) (xo : BitVec 10) (rt ra rb : RegIndex) (rc : Bool) :
    recordOfFormat .x (layoutX op xo rt ra rb rc) = recordX op xo rt ra rb rc := by
  have himm : (rb ++ xo ++ BitVec.ofBool rc : BitVec 16).toNat =
      rb.toNat * 2 ^ 11 + xo.toNat * 2 ^ 1 + (BitVec.ofBool rc).toNat := by
    show (rb ++ xo ++ BitVec.ofBool rc : BitVec (5 + 10 + 1)).toNat = _
    simp only [toNat_append_add]
    omega
  simp only [recordOfFormat, withFormatFields, withExtendedOpcode, withCommonFields, recordUnknown, recordX]
  congr 1
  all_goals first
    | (apply BitVec.eq_of_toNat_eq
       simp only [fieldPrimaryOpcode, fieldExtendedOpcode, field25to21, field20to16, field15to11, field10to6, field5to1, fieldImm,
      fieldBit0, fieldBit1, fieldBit10,
         toNat_extract, BitVec.extractLsb'_toNat, Nat.shiftRight_eq_div_pow, toNat_layoutX, himm]
       omega)
    | (apply bool_eq_of_toNat
       simp only [fieldPrimaryOpcode, fieldExtendedOpcode, field25to21, field20to16, field15to11, field10to6, field5to1, fieldImm,
      fieldBit0, fieldBit1, fieldBit10,
         toNat_ofBool_bit, toNat_layoutX]
       omega)

/-- The operands are read back from the layout. -/
theorem buildX_layoutX (c : RegIndex → RegIndex → RegIndex → Bool → Instr) (op : BitVec 6) (xo : BitVec 10) (rt ra rb : RegIndex) (rc : Bool) :
    buildX c (layoutX op xo rt ra rb rc) = c rt ra rb rc := by
  unfold buildX
  congr 1
  all_goals first
    | (apply BitVec.eq_of_toNat_eq
       simp only [fieldPrimaryOpcode, fieldExtendedOpcode, field25to21, field20to16, field15to11, field10to6, field5to1, fieldImm,
      fieldBit0, fieldBit1, fieldBit10, toNat_fieldSpr,
         toNat_extract, toNat_layoutX]
       omega)
    | (apply bool_eq_of_toNat
       simp only [fieldPrimaryOpcode, fieldExtendedOpcode, field25to21, field20to16, field15to11, field10to6, field5to1, fieldImm,
      fieldBit0, fieldBit1, fieldBit10,
         toNat_ofBool_bit, toNat_layoutX]
       omega)

/-- A word is the layout of its own fields. -/
theorem layoutX_fields (raw : Word) :
    layoutX (fieldPrimaryOpcode raw) (fieldExtendedOpcode raw) (field25to21 raw) (field20to16 raw) (field15to11 raw) (fieldBit0 raw) = raw := by
  apply BitVec.eq_of_toNat_eq
  rw [toNat_layoutX]
  simp only [fieldPrimaryOpcode, fieldExtendedOpcode, field25to21, field20to16, field15to11, field10to6, field5to1, fieldImm,
    fieldBit0, fieldBit1, fieldBit10, toNat_fieldSpr, toNat_extract, toNat_ofBool_bit]
  omega

/-! ## X with bit 10 free -/

theorem toNat_layoutXo (op : BitVec 6) (xo : BitVec 9) (rt ra rb : RegIndex) (oe rc : Bool) :
    (layoutXo op xo rt ra rb oe rc).toNat =
      op.toNat * 2 ^ 26 + rt.toNat * 2 ^ 21 + ra.toNat * 2 ^ 16 + rb.toNat * 2 ^ 11 + (BitVec.ofBool oe).toNat * 2 ^ 10 + xo.toNat * 2 ^ 1 + (BitVec.ofBool rc).toNat := by
  show (op ++ rt ++ ra ++ rb ++ BitVec.ofBool oe ++ xo ++ BitVec.ofBool rc : BitVec (6 + 5 + 5 + 5 + 1 + 9 + 1)).toNat = _
  simp only [toNat_append_add]
  omega

/-- The generic extraction on the layout is the record over the operands. -/
theorem recordOfFormat_layoutXo (op : BitVec 6) (xo : BitVec 9) (rt ra rb : RegIndex) (oe rc : Bool) :
    recordOfFormat .x (layoutXo op xo rt ra rb oe rc) = recordXo op xo rt ra rb oe rc := by
  have himm : (rb ++ BitVec.ofBool oe ++ xo ++ BitVec.ofBool rc : BitVec 16).toNat =
      rb.toNat * 2 ^ 11 + (BitVec.ofBool oe).toNat * 2 ^ 10 + xo.toNat * 2 ^ 1 + (BitVec.ofBool rc).toNat := by
    show (rb ++ BitVec.ofBool oe ++ xo ++ BitVec.ofBool rc : BitVec (5 + 1 + 9 + 1)).toNat = _
    simp only [toNat_append_add]
    omega
  have hxo : (BitVec.ofBool oe ++ xo : BitVec 10).toNat = (BitVec.ofBool oe).toNat * 2 ^ 9 + xo.toNat := by
    show (BitVec.ofBool oe ++ xo : BitVec (1 + 9)).toNat = _
    rw [toNat_append_add]
  simp only [recordOfFormat, withFormatFields, withExtendedOpcode, withCommonFields, recordUnknown, recordXo]
  congr 1
  all_goals first
    | (apply BitVec.eq_of_toNat_eq
       simp only [fieldPrimaryOpcode, fieldExtendedOpcode, field25to21, field20to16, field15to11, field10to6, field5to1, fieldImm,
      fieldBit0, fieldBit1, fieldBit10,
         toNat_extract, BitVec.extractLsb'_toNat, Nat.shiftRight_eq_div_pow, toNat_layoutXo, himm, hxo]
       omega)
    | (apply bool_eq_of_toNat
       simp only [fieldPrimaryOpcode, fieldExtendedOpcode, field25to21, field20to16, field15to11, field10to6, field5to1, fieldImm,
      fieldBit0, fieldBit1, fieldBit10,
         toNat_ofBool_bit, toNat_layoutXo]
       omega)

/-- The operands are read back from the layout. -/
theorem buildXo_layoutXo (c : RegIndex → RegIndex → RegIndex → Bool → Bool → Instr) (op : BitVec 6) (xo : BitVec 9) (rt ra rb : RegIndex) (oe rc : Bool) :
    buildXo c (layoutXo op xo rt ra rb oe rc) = c rt ra rb oe rc := by
  unfold buildXo
  congr 1
  all_goals first
    | (apply BitVec.eq_of_toNat_eq
       simp only [fieldPrimaryOpcode, fieldExtendedOpcode, field25to21, field20to16, field15to11, field10to6, field5to1, fieldImm,
      fieldBit0, fieldBit1, fieldBit10, toNat_fieldSpr,
         toNat_extract, toNat_layoutXo]
       omega)
    | (apply bool_eq_of_toNat
       simp only [fieldPrimaryOpcode, fieldExtendedOpcode, field25to21, field20to16, field15to11, field10to6, field5to1, fieldImm,
      fieldBit0, fieldBit1, fieldBit10,
         toNat_ofBool_bit, toNat_layoutXo]
       omega)

/-- A word is the layout of its own fields. -/
theorem layoutXo_fields (raw : Word) :
    layoutXo (fieldPrimaryOpcode raw) (raw.extractLsb' 1 9) (field25to21 raw) (field20to16 raw) (field15to11 raw) (fieldBit10 raw) (fieldBit0 raw) = raw := by
  apply BitVec.eq_of_toNat_eq
  rw [toNat_layoutXo]
  simp only [fieldPrimaryOpcode, fieldExtendedOpcode, field25to21, field20to16, field15to11, field10to6, field5to1, fieldImm,
    fieldBit0, fieldBit1, fieldBit10, toNat_fieldSpr, toNat_extract, toNat_ofBool_bit]
  omega

/-! ## XFX -/

/-- An XFX word is laid out as an X word whose register fields are the two halves of `spr` (R112). -/
theorem layoutXfx_eq (op : BitVec 6) (xo : BitVec 10) (rt : RegIndex) (spr : BitVec 10) (rc : Bool) :
    layoutXfx op xo rt spr rc = layoutX op xo rt (spr.extractLsb' 0 5) (spr.extractLsb' 5 5) rc := rfl

theorem fieldSpr_layoutX (op : BitVec 6) (xo : BitVec 10) (rt lo hi : RegIndex) (rc : Bool) :
    (fieldSpr (layoutX op xo rt lo hi rc)).toNat = hi.toNat * 2 ^ 5 + lo.toNat := by
  rw [toNat_fieldSpr, toNat_layoutX]
  omega

/-- The generic extraction on the layout is the record over the operands. -/
theorem recordOfFormat_layoutXfx (op : BitVec 6) (xo : BitVec 10) (rt : RegIndex) (spr : BitVec 10) (rc : Bool) :
    recordOfFormat .xfx (layoutXfx op xo rt spr rc) = recordXfx op xo rt spr rc := by
  have hspr : fieldSpr (layoutXfx op xo rt spr rc) = spr := by
    apply BitVec.eq_of_toNat_eq
    rw [layoutXfx_eq, fieldSpr_layoutX, ← toNat_spr]
  have hx := recordOfFormat_layoutX op xo rt (spr.extractLsb' 0 5) (spr.extractLsb' 5 5) rc
  rw [← layoutXfx_eq] at hx
  simp only [recordOfFormat, withFormatFields, withExtendedOpcode, withCommonFields, recordUnknown, recordXfx, recordX,
    DecodedInstruction.mk.injEq, hspr] at hx ⊢
  have hfields := hx.2
  simp only [hfields, and_self]

/-- The operands are read back from the layout. -/
theorem buildXfx_layoutXfx (c : RegIndex → BitVec 10 → Bool → Instr) (op : BitVec 6) (xo : BitVec 10) (rt : RegIndex)
    (spr : BitVec 10) (rc : Bool) : buildXfx c (layoutXfx op xo rt spr rc) = c rt spr rc := by
  have hr := recordOfFormat_layoutXfx op xo rt spr rc
  simp only [recordOfFormat, withFormatFields, withExtendedOpcode, withCommonFields, recordUnknown, recordXfx, DecodedInstruction.mk.injEq] at hr
  simp only [buildXfx, hr]

/-- A word is the layout of its own fields. -/
theorem layoutXfx_fields (raw : Word) :
    layoutXfx (fieldPrimaryOpcode raw) (fieldExtendedOpcode raw) (field25to21 raw) (fieldSpr raw) (fieldBit0 raw) =
      raw := by
  rw [layoutXfx_eq, extractLow_fieldSpr, extractHigh_fieldSpr, layoutX_fields]

/-! ## A -/

theorem toNat_layoutA (op : BitVec 6) (sub : BitVec 5) (frt fra frb frc : RegIndex) (rc : Bool) :
    (layoutA op sub frt fra frb frc rc).toNat =
      op.toNat * 2 ^ 26 + frt.toNat * 2 ^ 21 + fra.toNat * 2 ^ 16 + frb.toNat * 2 ^ 11 + frc.toNat * 2 ^ 6 + sub.toNat * 2 ^ 1 + (BitVec.ofBool rc).toNat := by
  show (op ++ frt ++ fra ++ frb ++ frc ++ sub ++ BitVec.ofBool rc : BitVec (6 + 5 + 5 + 5 + 5 + 5 + 1)).toNat = _
  simp only [toNat_append_add]
  omega

/-- The generic extraction on the layout is the record over the operands. -/
theorem recordOfFormat_layoutA (op : BitVec 6) (sub : BitVec 5) (frt fra frb frc : RegIndex) (rc : Bool) :
    recordOfFormat .a (layoutA op sub frt fra frb frc rc) = recordA op sub frt fra frb frc rc := by
  have himm : (frb ++ frc ++ sub ++ BitVec.ofBool rc : BitVec 16).toNat =
      frb.toNat * 2 ^ 11 + frc.toNat * 2 ^ 6 + sub.toNat * 2 ^ 1 + (BitVec.ofBool rc).toNat := by
    show (frb ++ frc ++ sub ++ BitVec.ofBool rc : BitVec (5 + 5 + 5 + 1)).toNat = _
    simp only [toNat_append_add]
    omega
  have hxo : (frc ++ sub : BitVec 10).toNat = frc.toNat * 2 ^ 5 + sub.toNat := by
    show (frc ++ sub : BitVec (5 + 5)).toNat = _
    rw [toNat_append_add]
  simp only [recordOfFormat, withFormatFields, withExtendedOpcode, withCommonFields, recordUnknown, recordA]
  congr 1
  all_goals first
    | (apply BitVec.eq_of_toNat_eq
       simp only [fieldPrimaryOpcode, fieldExtendedOpcode, field25to21, field20to16, field15to11, field10to6, field5to1, fieldImm,
      fieldBit0, fieldBit1, fieldBit10,
         toNat_extract, BitVec.extractLsb'_toNat, Nat.shiftRight_eq_div_pow, toNat_layoutA, himm, hxo]
       omega)
    | (apply bool_eq_of_toNat
       simp only [fieldPrimaryOpcode, fieldExtendedOpcode, field25to21, field20to16, field15to11, field10to6, field5to1, fieldImm,
      fieldBit0, fieldBit1, fieldBit10,
         toNat_ofBool_bit, toNat_layoutA]
       omega)

/-- The operands are read back from the layout. -/
theorem buildA_layoutA (c : RegIndex → RegIndex → RegIndex → RegIndex → Bool → Instr) (op : BitVec 6) (sub : BitVec 5) (frt fra frb frc : RegIndex) (rc : Bool) :
    buildA c (layoutA op sub frt fra frb frc rc) = c frt fra frb frc rc := by
  unfold buildA
  congr 1
  all_goals first
    | (apply BitVec.eq_of_toNat_eq
       simp only [fieldPrimaryOpcode, fieldExtendedOpcode, field25to21, field20to16, field15to11, field10to6, field5to1, fieldImm,
      fieldBit0, fieldBit1, fieldBit10, toNat_fieldSpr,
         toNat_extract, toNat_layoutA]
       omega)
    | (apply bool_eq_of_toNat
       simp only [fieldPrimaryOpcode, fieldExtendedOpcode, field25to21, field20to16, field15to11, field10to6, field5to1, fieldImm,
      fieldBit0, fieldBit1, fieldBit10,
         toNat_ofBool_bit, toNat_layoutA]
       omega)

/-- A word is the layout of its own fields. -/
theorem layoutA_fields (raw : Word) :
    layoutA (fieldPrimaryOpcode raw) (field5to1 raw) (field25to21 raw) (field20to16 raw) (field15to11 raw) (field10to6 raw) (fieldBit0 raw) = raw := by
  apply BitVec.eq_of_toNat_eq
  rw [toNat_layoutA]
  simp only [fieldPrimaryOpcode, fieldExtendedOpcode, field25to21, field20to16, field15to11, field10to6, field5to1, fieldImm,
    fieldBit0, fieldBit1, fieldBit10, toNat_fieldSpr, toNat_extract, toNat_ofBool_bit]
  omega

/-! ## Masked words -/

theorem toNat_and_FC000000 (raw : Word) :
    (raw &&& 0xFC000000#32).toNat = raw.toNat / 2 ^ 26 % 2 ^ 6 * 2 ^ 26 := by
  have h : raw &&& 0xFC000000#32 = (raw.extractLsb' 26 6 ++ 0#26 : BitVec (6 + 26)) := by
    apply BitVec.eq_of_getLsbD_eq
    intro i hi
    rw [BitVec.getLsbD_and]
    simp only [BitVec.getLsbD_append, BitVec.getLsbD_extractLsb']
    interval_cases i <;> simp
  rw [h]
  show (raw.extractLsb' 26 6 ++ 0#26 : BitVec (6 + 26)).toNat = _
  simp only [toNat_append_add, toNat_extract, BitVec.toNat_ofNat]
  omega

theorem toNat_and_FC00001C (raw : Word) :
    (raw &&& 0xFC00001C#32).toNat = raw.toNat / 2 ^ 26 % 2 ^ 6 * 2 ^ 26 + raw.toNat / 2 ^ 2 % 2 ^ 3 * 2 ^ 2 := by
  have h : raw &&& 0xFC00001C#32 = (raw.extractLsb' 26 6 ++ 0#21 ++ raw.extractLsb' 2 3 ++ 0#2 : BitVec (6 + 21 + 3 + 2)) := by
    apply BitVec.eq_of_getLsbD_eq
    intro i hi
    rw [BitVec.getLsbD_and]
    simp only [BitVec.getLsbD_append, BitVec.getLsbD_extractLsb']
    interval_cases i <;> simp
  rw [h]
  show (raw.extractLsb' 26 6 ++ 0#21 ++ raw.extractLsb' 2 3 ++ 0#2 : BitVec (6 + 21 + 3 + 2)).toNat = _
  simp only [toNat_append_add, toNat_extract, BitVec.toNat_ofNat]
  omega

theorem toNat_and_FC00001E (raw : Word) :
    (raw &&& 0xFC00001E#32).toNat = raw.toNat / 2 ^ 26 % 2 ^ 6 * 2 ^ 26 + raw.toNat / 2 ^ 1 % 2 ^ 4 * 2 ^ 1 := by
  have h : raw &&& 0xFC00001E#32 = (raw.extractLsb' 26 6 ++ 0#21 ++ raw.extractLsb' 1 4 ++ 0#1 : BitVec (6 + 21 + 4 + 1)) := by
    apply BitVec.eq_of_getLsbD_eq
    intro i hi
    rw [BitVec.getLsbD_and]
    simp only [BitVec.getLsbD_append, BitVec.getLsbD_extractLsb']
    interval_cases i <;> simp
  rw [h]
  show (raw.extractLsb' 26 6 ++ 0#21 ++ raw.extractLsb' 1 4 ++ 0#1 : BitVec (6 + 21 + 4 + 1)).toNat = _
  simp only [toNat_append_add, toNat_extract, BitVec.toNat_ofNat]
  omega

theorem toNat_and_FC000003 (raw : Word) :
    (raw &&& 0xFC000003#32).toNat = raw.toNat / 2 ^ 26 % 2 ^ 6 * 2 ^ 26 + raw.toNat / 2 ^ 0 % 2 ^ 2 := by
  have h : raw &&& 0xFC000003#32 = (raw.extractLsb' 26 6 ++ 0#24 ++ raw.extractLsb' 0 2 : BitVec (6 + 24 + 2)) := by
    apply BitVec.eq_of_getLsbD_eq
    intro i hi
    rw [BitVec.getLsbD_and]
    simp only [BitVec.getLsbD_append, BitVec.getLsbD_extractLsb']
    interval_cases i <;> simp
  rw [h]
  show (raw.extractLsb' 26 6 ++ 0#24 ++ raw.extractLsb' 0 2 : BitVec (6 + 24 + 2)).toNat = _
  simp only [toNat_append_add, toNat_extract, BitVec.toNat_ofNat]
  omega

theorem toNat_and_000007FE (raw : Word) :
    (raw &&& 0x000007FE#32).toNat = raw.toNat / 2 ^ 1 % 2 ^ 10 * 2 ^ 1 := by
  have h : raw &&& 0x000007FE#32 = (0#21 ++ raw.extractLsb' 1 10 ++ 0#1 : BitVec (21 + 10 + 1)) := by
    apply BitVec.eq_of_getLsbD_eq
    intro i hi
    rw [BitVec.getLsbD_and]
    simp only [BitVec.getLsbD_append, BitVec.getLsbD_extractLsb']
    interval_cases i <;> simp
  rw [h]
  show (0#21 ++ raw.extractLsb' 1 10 ++ 0#1 : BitVec (21 + 10 + 1)).toNat = _
  simp only [toNat_append_add, toNat_extract, BitVec.toNat_ofNat]
  omega

theorem toNat_and_000003FE (raw : Word) :
    (raw &&& 0x000003FE#32).toNat = raw.toNat / 2 ^ 1 % 2 ^ 9 * 2 ^ 1 := by
  have h : raw &&& 0x000003FE#32 = (0#22 ++ raw.extractLsb' 1 9 ++ 0#1 : BitVec (22 + 9 + 1)) := by
    apply BitVec.eq_of_getLsbD_eq
    intro i hi
    rw [BitVec.getLsbD_and]
    simp only [BitVec.getLsbD_append, BitVec.getLsbD_extractLsb']
    interval_cases i <;> simp
  rw [h]
  show (0#22 ++ raw.extractLsb' 1 9 ++ 0#1 : BitVec (22 + 9 + 1)).toNat = _
  simp only [toNat_append_add, toNat_extract, BitVec.toNat_ofNat]
  omega

theorem toNat_and_FC00003E (raw : Word) :
    (raw &&& 0xFC00003E#32).toNat = raw.toNat / 2 ^ 26 % 2 ^ 6 * 2 ^ 26 + raw.toNat / 2 ^ 1 % 2 ^ 5 * 2 ^ 1 := by
  have h : raw &&& 0xFC00003E#32 = (raw.extractLsb' 26 6 ++ 0#20 ++ raw.extractLsb' 1 5 ++ 0#1 : BitVec (6 + 20 + 5 + 1)) := by
    apply BitVec.eq_of_getLsbD_eq
    intro i hi
    rw [BitVec.getLsbD_and]
    simp only [BitVec.getLsbD_append, BitVec.getLsbD_extractLsb']
    interval_cases i <;> simp
  rw [h]
  show (raw.extractLsb' 26 6 ++ 0#20 ++ raw.extractLsb' 1 5 ++ 0#1 : BitVec (6 + 20 + 5 + 1)).toNat = _
  simp only [toNat_append_add, toNat_extract, BitVec.toNat_ofNat]
  omega

/-! ## The lookup -/

theorem find_map {α β : Type} (f : α → β) (p : β → Bool) (l : List α) :
    (l.map f).find? p = (l.find? fun a => p (f a)).map f := by
  induction l with
  | nil => rfl
  | cons a rest ih => cases h : p (f a) <;> simp [List.find?, h, ih]

/-- `Lookup` under `DefaultTables` is the entry of the row the instruction is read from. -/
theorem lookup_defaultTables (raw : Word) :
    lookup defaultTables raw = (lookupRow TableRow.entry defaultRows raw).map TableRow.entry := by
  have hs : ∀ l : List TableRow, scanRows id (l.map (·.entry)) raw = (scanRows TableRow.entry l raw).map TableRow.entry :=
    fun l => find_map _ _ l
  unfold lookup lookupRow secondaryRow defaultTables defaultRows
  simp only [hs]
  cases scanRows TableRow.entry xRows raw <;> cases scanRows TableRow.entry xlRows raw <;>
    cases scanRows TableRow.entry aRows raw <;> split_ifs <;> simp_all <;>
    cases scanRows TableRow.entry xfxRows raw <;> simp_all

end Sys2Proof
end

