-- ==== Sys2Proof/Laws/Select.lean ====
section
/-! SUPPORT. Which entry selects which layout: the primary opcode of a layout, the number its masked word stands for,
the table family a word is dispatched to (40_decoder_ops.md R144), and that the first row of a table that selects a
word is the only one when no two of its rows do. -/

namespace Sys2Proof

@[simp] theorem fieldPrimaryOpcode_layoutD (op : BitVec 6) (rt ra : RegIndex) (imm : BitVec 16) :
    fieldPrimaryOpcode (layoutD op rt ra imm) = op := by
  apply BitVec.eq_of_toNat_eq
  rw [fieldPrimaryOpcode, toNat_extract, toNat_layoutD]
  omega

theorem selects_layoutD (op : BitVec 6) (rt ra : RegIndex) (imm : BitVec 16) {fmt : InstructionFormat} {name : String}
    {m : Word} (h : m.toNat = op.toNat * 2 ^ 26) :
    DecodeTableEntry.selects ⟨0xFC000000, m, fmt, name⟩ (layoutD op rt ra imm) = true := by
  unfold DecodeTableEntry.selects
  rw [beq_iff_eq]
  apply BitVec.eq_of_toNat_eq
  rw [h]
  show (layoutD op rt ra imm &&& 0xFC000000#32).toNat = _
  rw [toNat_and_FC000000, toNat_layoutD]
  omega

@[simp] theorem fieldPrimaryOpcode_layoutB (op : BitVec 6) (bt ba : RegIndex) (bd : BitVec 14) (aa lk : Bool) :
    fieldPrimaryOpcode (layoutB op bt ba bd aa lk) = op := by
  apply BitVec.eq_of_toNat_eq
  rw [fieldPrimaryOpcode, toNat_extract, toNat_layoutB]
  omega

theorem selects_layoutB (op : BitVec 6) (bt ba : RegIndex) (bd : BitVec 14) (aa lk : Bool) {fmt : InstructionFormat} {name : String}
    {m : Word} (h : m.toNat = op.toNat * 2 ^ 26) :
    DecodeTableEntry.selects ⟨0xFC000000, m, fmt, name⟩ (layoutB op bt ba bd aa lk) = true := by
  unfold DecodeTableEntry.selects
  rw [beq_iff_eq]
  apply BitVec.eq_of_toNat_eq
  rw [h]
  show (layoutB op bt ba bd aa lk &&& 0xFC000000#32).toNat = _
  rw [toNat_and_FC000000, toNat_layoutB]
  omega

@[simp] theorem fieldPrimaryOpcode_layoutSc (op : BitVec 6) (low : BitVec 26) :
    fieldPrimaryOpcode (layoutSc op low) = op := by
  apply BitVec.eq_of_toNat_eq
  rw [fieldPrimaryOpcode, toNat_extract, toNat_layoutSc]
  omega

theorem selects_layoutSc (op : BitVec 6) (low : BitVec 26) {fmt : InstructionFormat} {name : String}
    {m : Word} (h : m.toNat = op.toNat * 2 ^ 26) :
    DecodeTableEntry.selects ⟨0xFC000000, m, fmt, name⟩ (layoutSc op low) = true := by
  unfold DecodeTableEntry.selects
  rw [beq_iff_eq]
  apply BitVec.eq_of_toNat_eq
  rw [h]
  show (layoutSc op low &&& 0xFC000000#32).toNat = _
  rw [toNat_and_FC000000, toNat_layoutSc]
  omega

@[simp] theorem fieldPrimaryOpcode_layoutI (op : BitVec 6) (li : BitVec 24) (aa lk : Bool) :
    fieldPrimaryOpcode (layoutI op li aa lk) = op := by
  apply BitVec.eq_of_toNat_eq
  rw [fieldPrimaryOpcode, toNat_extract, toNat_layoutI]
  omega

theorem selects_layoutI (op : BitVec 6) (li : BitVec 24) (aa lk : Bool) {fmt : InstructionFormat} {name : String}
    {m : Word} (h : m.toNat = op.toNat * 2 ^ 26) :
    DecodeTableEntry.selects ⟨0xFC000000, m, fmt, name⟩ (layoutI op li aa lk) = true := by
  unfold DecodeTableEntry.selects
  rw [beq_iff_eq]
  apply BitVec.eq_of_toNat_eq
  rw [h]
  show (layoutI op li aa lk &&& 0xFC000000#32).toNat = _
  rw [toNat_and_FC000000, toNat_layoutI]
  omega

@[simp] theorem fieldPrimaryOpcode_layoutM (op : BitVec 6) (rt ra sh mb me : RegIndex) (rc : Bool) :
    fieldPrimaryOpcode (layoutM op rt ra sh mb me rc) = op := by
  apply BitVec.eq_of_toNat_eq
  rw [fieldPrimaryOpcode, toNat_extract, toNat_layoutM]
  omega

theorem selects_layoutM (op : BitVec 6) (rt ra sh mb me : RegIndex) (rc : Bool) {fmt : InstructionFormat} {name : String}
    {m : Word} (h : m.toNat = op.toNat * 2 ^ 26) :
    DecodeTableEntry.selects ⟨0xFC000000, m, fmt, name⟩ (layoutM op rt ra sh mb me rc) = true := by
  unfold DecodeTableEntry.selects
  rw [beq_iff_eq]
  apply BitVec.eq_of_toNat_eq
  rw [h]
  show (layoutM op rt ra sh mb me rc &&& 0xFC000000#32).toNat = _
  rw [toNat_and_FC000000, toNat_layoutM]
  omega

@[simp] theorem fieldPrimaryOpcode_layoutMd (op : BitVec 6) (sel : BitVec 3) (rt ra rb : RegIndex) (mid : BitVec 6) (low : BitVec 2) :
    fieldPrimaryOpcode (layoutMd op sel rt ra rb mid low) = op := by
  apply BitVec.eq_of_toNat_eq
  rw [fieldPrimaryOpcode, toNat_extract, toNat_layoutMd]
  omega

theorem selects_layoutMd (op : BitVec 6) (sel : BitVec 3) (rt ra rb : RegIndex) (mid : BitVec 6) (low : BitVec 2) {fmt : InstructionFormat} {name : String}
    {m : Word} (h : m.toNat = op.toNat * 2 ^ 26 + sel.toNat * 2 ^ 2) :
    DecodeTableEntry.selects ⟨0xFC00001C, m, fmt, name⟩ (layoutMd op sel rt ra rb mid low) = true := by
  unfold DecodeTableEntry.selects
  rw [beq_iff_eq]
  apply BitVec.eq_of_toNat_eq
  rw [h]
  show (layoutMd op sel rt ra rb mid low &&& 0xFC00001C#32).toNat = _
  rw [toNat_and_FC00001C, toNat_layoutMd]
  omega

@[simp] theorem fieldPrimaryOpcode_layoutMds (op : BitVec 6) (sel : BitVec 4) (rt ra rb : RegIndex) (mid : BitVec 6) (rc : Bool) :
    fieldPrimaryOpcode (layoutMds op sel rt ra rb mid rc) = op := by
  apply BitVec.eq_of_toNat_eq
  rw [fieldPrimaryOpcode, toNat_extract, toNat_layoutMds]
  omega

theorem selects_layoutMds (op : BitVec 6) (sel : BitVec 4) (rt ra rb : RegIndex) (mid : BitVec 6) (rc : Bool) {fmt : InstructionFormat} {name : String}
    {m : Word} (h : m.toNat = op.toNat * 2 ^ 26 + sel.toNat * 2 ^ 1) :
    DecodeTableEntry.selects ⟨0xFC00001E, m, fmt, name⟩ (layoutMds op sel rt ra rb mid rc) = true := by
  unfold DecodeTableEntry.selects
  rw [beq_iff_eq]
  apply BitVec.eq_of_toNat_eq
  rw [h]
  show (layoutMds op sel rt ra rb mid rc &&& 0xFC00001E#32).toNat = _
  rw [toNat_and_FC00001E, toNat_layoutMds]
  omega

@[simp] theorem fieldPrimaryOpcode_layoutDs (op : BitVec 6) (xo : BitVec 2) (rt ra : RegIndex) (ds : BitVec 14) :
    fieldPrimaryOpcode (layoutDs op xo rt ra ds) = op := by
  apply BitVec.eq_of_toNat_eq
  rw [fieldPrimaryOpcode, toNat_extract, toNat_layoutDs]
  omega

theorem selects_layoutDs (op : BitVec 6) (xo : BitVec 2) (rt ra : RegIndex) (ds : BitVec 14) {fmt : InstructionFormat} {name : String}
    {m : Word} (h : m.toNat = op.toNat * 2 ^ 26 + xo.toNat) :
    DecodeTableEntry.selects ⟨0xFC000003, m, fmt, name⟩ (layoutDs op xo rt ra ds) = true := by
  unfold DecodeTableEntry.selects
  rw [beq_iff_eq]
  apply BitVec.eq_of_toNat_eq
  rw [h]
  show (layoutDs op xo rt ra ds &&& 0xFC000003#32).toNat = _
  rw [toNat_and_FC000003, toNat_layoutDs]
  omega

@[simp] theorem fieldPrimaryOpcode_layoutXl (op : BitVec 6) (xo : BitVec 10) (bt ba bb : RegIndex) (lk : Bool) :
    fieldPrimaryOpcode (layoutXl op xo bt ba bb lk) = op := by
  apply BitVec.eq_of_toNat_eq
  rw [fieldPrimaryOpcode, toNat_extract, toNat_layoutXl]
  omega

theorem selects_layoutXl (op : BitVec 6) (xo : BitVec 10) (bt ba bb : RegIndex) (lk : Bool) {fmt : InstructionFormat} {name : String}
    {m : Word} (h : m.toNat = xo.toNat * 2 ^ 1) :
    DecodeTableEntry.selects ⟨0x000007FE, m, fmt, name⟩ (layoutXl op xo bt ba bb lk) = true := by
  unfold DecodeTableEntry.selects
  rw [beq_iff_eq]
  apply BitVec.eq_of_toNat_eq
  rw [h]
  show (layoutXl op xo bt ba bb lk &&& 0x000007FE#32).toNat = _
  rw [toNat_and_000007FE, toNat_layoutXl]
  omega

@[simp] theorem fieldPrimaryOpcode_layoutX (op : BitVec 6) (xo : BitVec 10) (rt ra rb : RegIndex) (rc : Bool) :
    fieldPrimaryOpcode (layoutX op xo rt ra rb rc) = op := by
  apply BitVec.eq_of_toNat_eq
  rw [fieldPrimaryOpcode, toNat_extract, toNat_layoutX]
  omega

theorem selects_layoutX (op : BitVec 6) (xo : BitVec 10) (rt ra rb : RegIndex) (rc : Bool) {fmt : InstructionFormat} {name : String}
    {m : Word} (h : m.toNat = xo.toNat * 2 ^ 1) :
    DecodeTableEntry.selects ⟨0x000007FE, m, fmt, name⟩ (layoutX op xo rt ra rb rc) = true := by
  unfold DecodeTableEntry.selects
  rw [beq_iff_eq]
  apply BitVec.eq_of_toNat_eq
  rw [h]
  show (layoutX op xo rt ra rb rc &&& 0x000007FE#32).toNat = _
  rw [toNat_and_000007FE, toNat_layoutX]
  omega

@[simp] theorem fieldPrimaryOpcode_layoutXo (op : BitVec 6) (xo : BitVec 9) (rt ra rb : RegIndex) (oe rc : Bool) :
    fieldPrimaryOpcode (layoutXo op xo rt ra rb oe rc) = op := by
  apply BitVec.eq_of_toNat_eq
  rw [fieldPrimaryOpcode, toNat_extract, toNat_layoutXo]
  omega

theorem selects_layoutXo (op : BitVec 6) (xo : BitVec 9) (rt ra rb : RegIndex) (oe rc : Bool) {fmt : InstructionFormat} {name : String}
    {m : Word} (h : m.toNat = xo.toNat * 2 ^ 1) :
    DecodeTableEntry.selects ⟨0x000003FE, m, fmt, name⟩ (layoutXo op xo rt ra rb oe rc) = true := by
  unfold DecodeTableEntry.selects
  rw [beq_iff_eq]
  apply BitVec.eq_of_toNat_eq
  rw [h]
  show (layoutXo op xo rt ra rb oe rc &&& 0x000003FE#32).toNat = _
  rw [toNat_and_000003FE, toNat_layoutXo]
  omega

@[simp] theorem fieldPrimaryOpcode_layoutXfx (op : BitVec 6) (xo : BitVec 10) (rt : RegIndex) (spr : BitVec 10) (rc : Bool) :
    fieldPrimaryOpcode (layoutXfx op xo rt spr rc) = op := by
  apply BitVec.eq_of_toNat_eq
  rw [fieldPrimaryOpcode, toNat_extract, layoutXfx_eq, toNat_layoutX]
  omega

theorem selects_layoutXfx (op : BitVec 6) (xo : BitVec 10) (rt : RegIndex) (spr : BitVec 10) (rc : Bool) {fmt : InstructionFormat} {name : String}
    {m : Word} (h : m.toNat = xo.toNat * 2 ^ 1) :
    DecodeTableEntry.selects ⟨0x000007FE, m, fmt, name⟩ (layoutXfx op xo rt spr rc) = true := by
  unfold DecodeTableEntry.selects
  rw [beq_iff_eq]
  apply BitVec.eq_of_toNat_eq
  rw [h]
  show (layoutXfx op xo rt spr rc &&& 0x000007FE#32).toNat = _
  rw [toNat_and_000007FE, layoutXfx_eq, toNat_layoutX]
  omega

@[simp] theorem fieldPrimaryOpcode_layoutA (op : BitVec 6) (sub : BitVec 5) (frt fra frb frc : RegIndex) (rc : Bool) :
    fieldPrimaryOpcode (layoutA op sub frt fra frb frc rc) = op := by
  apply BitVec.eq_of_toNat_eq
  rw [fieldPrimaryOpcode, toNat_extract, toNat_layoutA]
  omega

theorem selects_layoutA (op : BitVec 6) (sub : BitVec 5) (frt fra frb frc : RegIndex) (rc : Bool) {fmt : InstructionFormat} {name : String}
    {m : Word} (h : m.toNat = op.toNat * 2 ^ 26 + sub.toNat * 2 ^ 1) :
    DecodeTableEntry.selects ⟨0xFC00003E, m, fmt, name⟩ (layoutA op sub frt fra frb frc rc) = true := by
  unfold DecodeTableEntry.selects
  rw [beq_iff_eq]
  apply BitVec.eq_of_toNat_eq
  rw [h]
  show (layoutA op sub frt fra frb frc rc &&& 0xFC00003E#32).toNat = _
  rw [toNat_and_FC00003E, toNat_layoutA]
  omega

/-! ## A selected word is the layout of its operands -/

theorem layoutD_of_selects (op : BitVec 6) {fmt : InstructionFormat} {name : String} {m raw : Word}
    (h : m.toNat = op.toNat * 2 ^ 26) (hs : DecodeTableEntry.selects ⟨0xFC000000, m, fmt, name⟩ raw = true) :
    layoutD op (field25to21 raw) (field20to16 raw) (fieldImm raw) = raw := by
  have hm : (raw &&& 0xFC000000#32).toNat = m.toNat := congrArg BitVec.toNat (beq_iff_eq.mp hs)
  rw [toNat_and_FC000000, h] at hm
  have hop : fieldPrimaryOpcode raw = op := by
    apply BitVec.eq_of_toNat_eq
    rw [fieldPrimaryOpcode, toNat_extract]
    omega
  rw [← hop]
  exact layoutD_fields raw

theorem layoutB_of_selects (op : BitVec 6) {fmt : InstructionFormat} {name : String} {m raw : Word}
    (h : m.toNat = op.toNat * 2 ^ 26) (hs : DecodeTableEntry.selects ⟨0xFC000000, m, fmt, name⟩ raw = true) :
    layoutB op (field25to21 raw) (field20to16 raw) (raw.extractLsb' 2 14) (fieldBit1 raw) (fieldBit0 raw) = raw := by
  have hm : (raw &&& 0xFC000000#32).toNat = m.toNat := congrArg BitVec.toNat (beq_iff_eq.mp hs)
  rw [toNat_and_FC000000, h] at hm
  have hop : fieldPrimaryOpcode raw = op := by
    apply BitVec.eq_of_toNat_eq
    rw [fieldPrimaryOpcode, toNat_extract]
    omega
  rw [← hop]
  exact layoutB_fields raw

theorem layoutSc_of_selects (op : BitVec 6) {fmt : InstructionFormat} {name : String} {m raw : Word}
    (h : m.toNat = op.toNat * 2 ^ 26) (hs : DecodeTableEntry.selects ⟨0xFC000000, m, fmt, name⟩ raw = true) :
    layoutSc op (raw.extractLsb' 0 26) = raw := by
  have hm : (raw &&& 0xFC000000#32).toNat = m.toNat := congrArg BitVec.toNat (beq_iff_eq.mp hs)
  rw [toNat_and_FC000000, h] at hm
  have hop : fieldPrimaryOpcode raw = op := by
    apply BitVec.eq_of_toNat_eq
    rw [fieldPrimaryOpcode, toNat_extract]
    omega
  rw [← hop]
  exact layoutSc_fields raw

theorem layoutI_of_selects (op : BitVec 6) {fmt : InstructionFormat} {name : String} {m raw : Word}
    (h : m.toNat = op.toNat * 2 ^ 26) (hs : DecodeTableEntry.selects ⟨0xFC000000, m, fmt, name⟩ raw = true) :
    layoutI op (raw.extractLsb' 2 24) (fieldBit1 raw) (fieldBit0 raw) = raw := by
  have hm : (raw &&& 0xFC000000#32).toNat = m.toNat := congrArg BitVec.toNat (beq_iff_eq.mp hs)
  rw [toNat_and_FC000000, h] at hm
  have hop : fieldPrimaryOpcode raw = op := by
    apply BitVec.eq_of_toNat_eq
    rw [fieldPrimaryOpcode, toNat_extract]
    omega
  rw [← hop]
  exact layoutI_fields raw

theorem layoutM_of_selects (op : BitVec 6) {fmt : InstructionFormat} {name : String} {m raw : Word}
    (h : m.toNat = op.toNat * 2 ^ 26) (hs : DecodeTableEntry.selects ⟨0xFC000000, m, fmt, name⟩ raw = true) :
    layoutM op (field25to21 raw) (field20to16 raw) (field15to11 raw) (field10to6 raw) (field5to1 raw) (fieldBit0 raw) = raw := by
  have hm : (raw &&& 0xFC000000#32).toNat = m.toNat := congrArg BitVec.toNat (beq_iff_eq.mp hs)
  rw [toNat_and_FC000000, h] at hm
  have hop : fieldPrimaryOpcode raw = op := by
    apply BitVec.eq_of_toNat_eq
    rw [fieldPrimaryOpcode, toNat_extract]
    omega
  rw [← hop]
  exact layoutM_fields raw

theorem layoutMd_of_selects (op : BitVec 6) (sel : BitVec 3) {fmt : InstructionFormat} {name : String} {m raw : Word}
    (h : m.toNat = op.toNat * 2 ^ 26 + sel.toNat * 2 ^ 2) (hs : DecodeTableEntry.selects ⟨0xFC00001C, m, fmt, name⟩ raw = true) :
    layoutMd op sel (field25to21 raw) (field20to16 raw) (field15to11 raw) (raw.extractLsb' 5 6) (raw.extractLsb' 0 2) = raw := by
  have hm : (raw &&& 0xFC00001C#32).toNat = m.toNat := congrArg BitVec.toNat (beq_iff_eq.mp hs)
  rw [toNat_and_FC00001C, h] at hm
  have hop : fieldPrimaryOpcode raw = op := by
    apply BitVec.eq_of_toNat_eq
    rw [fieldPrimaryOpcode, toNat_extract]
    omega
  have hsel : raw.extractLsb' 2 3 = sel := by
    apply BitVec.eq_of_toNat_eq
    rw [toNat_extract]
    omega
  rw [← hop, ← hsel]
  exact layoutMd_fields raw

theorem layoutMds_of_selects (op : BitVec 6) (sel : BitVec 4) {fmt : InstructionFormat} {name : String} {m raw : Word}
    (h : m.toNat = op.toNat * 2 ^ 26 + sel.toNat * 2 ^ 1) (hs : DecodeTableEntry.selects ⟨0xFC00001E, m, fmt, name⟩ raw = true) :
    layoutMds op sel (field25to21 raw) (field20to16 raw) (field15to11 raw) (raw.extractLsb' 5 6) (fieldBit0 raw) = raw := by
  have hm : (raw &&& 0xFC00001E#32).toNat = m.toNat := congrArg BitVec.toNat (beq_iff_eq.mp hs)
  rw [toNat_and_FC00001E, h] at hm
  have hop : fieldPrimaryOpcode raw = op := by
    apply BitVec.eq_of_toNat_eq
    rw [fieldPrimaryOpcode, toNat_extract]
    omega
  have hsel : raw.extractLsb' 1 4 = sel := by
    apply BitVec.eq_of_toNat_eq
    rw [toNat_extract]
    omega
  rw [← hop, ← hsel]
  exact layoutMds_fields raw

theorem layoutDs_of_selects (op : BitVec 6) (xo : BitVec 2) {fmt : InstructionFormat} {name : String} {m raw : Word}
    (h : m.toNat = op.toNat * 2 ^ 26 + xo.toNat) (hs : DecodeTableEntry.selects ⟨0xFC000003, m, fmt, name⟩ raw = true) :
    layoutDs op xo (field25to21 raw) (field20to16 raw) (raw.extractLsb' 2 14) = raw := by
  have hm : (raw &&& 0xFC000003#32).toNat = m.toNat := congrArg BitVec.toNat (beq_iff_eq.mp hs)
  rw [toNat_and_FC000003, h] at hm
  have hop : fieldPrimaryOpcode raw = op := by
    apply BitVec.eq_of_toNat_eq
    rw [fieldPrimaryOpcode, toNat_extract]
    omega
  have hxo : raw.extractLsb' 0 2 = xo := by
    apply BitVec.eq_of_toNat_eq
    rw [toNat_extract]
    omega
  rw [← hop, ← hxo]
  exact layoutDs_fields raw

theorem layoutXl_of_selects (op : BitVec 6) (xo : BitVec 10) {fmt : InstructionFormat} {name : String} {m raw : Word}
    (hop : fieldPrimaryOpcode raw = op) (h : m.toNat = xo.toNat * 2 ^ 1) (hs : DecodeTableEntry.selects ⟨0x000007FE, m, fmt, name⟩ raw = true) :
    layoutXl op xo (field25to21 raw) (field20to16 raw) (field15to11 raw) (fieldBit0 raw) = raw := by
  have hm : (raw &&& 0x000007FE#32).toNat = m.toNat := congrArg BitVec.toNat (beq_iff_eq.mp hs)
  rw [toNat_and_000007FE, h] at hm
  rw [← hop]
  have hxo : fieldExtendedOpcode raw = xo := by
    apply BitVec.eq_of_toNat_eq
    rw [fieldExtendedOpcode, toNat_extract]
    omega
  rw [← hxo]
  exact layoutXl_fields raw

theorem layoutX_of_selects (op : BitVec 6) (xo : BitVec 10) {fmt : InstructionFormat} {name : String} {m raw : Word}
    (hop : fieldPrimaryOpcode raw = op) (h : m.toNat = xo.toNat * 2 ^ 1) (hs : DecodeTableEntry.selects ⟨0x000007FE, m, fmt, name⟩ raw = true) :
    layoutX op xo (field25to21 raw) (field20to16 raw) (field15to11 raw) (fieldBit0 raw) = raw := by
  have hm : (raw &&& 0x000007FE#32).toNat = m.toNat := congrArg BitVec.toNat (beq_iff_eq.mp hs)
  rw [toNat_and_000007FE, h] at hm
  rw [← hop]
  have hxo : fieldExtendedOpcode raw = xo := by
    apply BitVec.eq_of_toNat_eq
    rw [fieldExtendedOpcode, toNat_extract]
    omega
  rw [← hxo]
  exact layoutX_fields raw

theorem layoutXo_of_selects (op : BitVec 6) (xo : BitVec 9) {fmt : InstructionFormat} {name : String} {m raw : Word}
    (hop : fieldPrimaryOpcode raw = op) (h : m.toNat = xo.toNat * 2 ^ 1) (hs : DecodeTableEntry.selects ⟨0x000003FE, m, fmt, name⟩ raw = true) :
    layoutXo op xo (field25to21 raw) (field20to16 raw) (field15to11 raw) (fieldBit10 raw) (fieldBit0 raw) = raw := by
  have hm : (raw &&& 0x000003FE#32).toNat = m.toNat := congrArg BitVec.toNat (beq_iff_eq.mp hs)
  rw [toNat_and_000003FE, h] at hm
  rw [← hop]
  have hxo : raw.extractLsb' 1 9 = xo := by
    apply BitVec.eq_of_toNat_eq
    rw [toNat_extract]
    omega
  rw [← hxo]
  exact layoutXo_fields raw

theorem layoutXfx_of_selects (op : BitVec 6) (xo : BitVec 10) {fmt : InstructionFormat} {name : String} {m raw : Word}
    (hop : fieldPrimaryOpcode raw = op) (h : m.toNat = xo.toNat * 2 ^ 1) (hs : DecodeTableEntry.selects ⟨0x000007FE, m, fmt, name⟩ raw = true) :
    layoutXfx op xo (field25to21 raw) (fieldSpr raw) (fieldBit0 raw) = raw := by
  have hm : (raw &&& 0x000007FE#32).toNat = m.toNat := congrArg BitVec.toNat (beq_iff_eq.mp hs)
  rw [toNat_and_000007FE, h] at hm
  rw [← hop]
  have hxo : fieldExtendedOpcode raw = xo := by
    apply BitVec.eq_of_toNat_eq
    rw [fieldExtendedOpcode, toNat_extract]
    omega
  rw [← hxo]
  exact layoutXfx_fields raw

theorem layoutA_of_selects (op : BitVec 6) (sub : BitVec 5) {fmt : InstructionFormat} {name : String} {m raw : Word}
    (h : m.toNat = op.toNat * 2 ^ 26 + sub.toNat * 2 ^ 1) (hs : DecodeTableEntry.selects ⟨0xFC00003E, m, fmt, name⟩ raw = true) :
    layoutA op sub (field25to21 raw) (field20to16 raw) (field15to11 raw) (field10to6 raw) (fieldBit0 raw) = raw := by
  have hm : (raw &&& 0xFC00003E#32).toNat = m.toNat := congrArg BitVec.toNat (beq_iff_eq.mp hs)
  rw [toNat_and_FC00003E, h] at hm
  have hop : fieldPrimaryOpcode raw = op := by
    apply BitVec.eq_of_toNat_eq
    rw [fieldPrimaryOpcode, toNat_extract]
    omega
  have hsub : field5to1 raw = sub := by
    apply BitVec.eq_of_toNat_eq
    rw [field5to1, toNat_extract]
    omega
  rw [← hop, ← hsub]
  exact layoutA_fields raw

/-! ## The table of a word -/

/-- The rows a word is looked up in first (R144): its secondary family, else the primary table. Under `DefaultTables`
no entry of the primary table selects a word of a secondary family (R127). -/
def ownRows (raw : Word) : List TableRow :=
  if fieldPrimaryOpcode raw = 19 then xlRows
  else if fieldPrimaryOpcode raw = 31 then xRows ++ xfxRows
  else if fieldPrimaryOpcode raw = 59 ∨ fieldPrimaryOpcode raw = 63 then aRows
  else primaryRows

/-- Two entries that no word satisfies together (R128). -/
def DecodeTableEntry.apart (a b : DecodeTableEntry) : Bool :=
  (a.matchBits ^^^ b.matchBits) &&& (a.mask &&& b.mask) != 0#32

theorem apart_of_selects {a b : DecodeTableEntry} {raw : Word} (ha : a.selects raw = true) (hb : b.selects raw = true) :
    a.apart b = false := by
  unfold DecodeTableEntry.selects at ha hb
  rw [beq_iff_eq] at ha hb
  unfold DecodeTableEntry.apart
  rw [bne_eq_false_iff_eq, ← ha, ← hb]
  ext i hi
  simp only [BitVec.getElem_and, BitVec.getElem_xor]
  cases raw[i] <;> cases a.mask[i] <;> cases b.mask[i] <;> simp

/-- In a table whose entries are pairwise apart, a row that selects a word is the one the scan finds. -/
theorem scanRows_eq_of_mem {l : List TableRow} {raw : Word} {r : TableRow}
    (h : l.Pairwise fun a b => a.entry.apart b.entry = true) (hr : r ∈ l) (hs : r.entry.selects raw = true) :
    scanRows TableRow.entry l raw = some r := by
  unfold scanRows
  induction l with
  | nil => cases hr
  | cons a rest ih =>
    rw [List.pairwise_cons] at h
    rcases List.mem_cons.mp hr with rfl | hrest
    · simp [List.find?, hs]
    · have : a.entry.selects raw = false := by
        cases ha : a.entry.selects raw
        · rfl
        · have h1 := h.1 r hrest
          rw [apart_of_selects ha hs] at h1
          cases h1
      simp only [List.find?, this]
      exact ih h.2 hrest

end Sys2Proof
end

