-- ==== Sys2Proof/Laws/PerInstr.lean ====
section
/-! SUPPORT. One lemma per instruction: its own row of `DefaultTables`. -/

namespace Sys2Proof.Laws.OwnRow

set_option Elab.async false

/-- The instruction has a row in the table its word is dispatched to: the row is named as the instruction, its entry
selects the instruction's word, and the instruction is read back from that word by it. -/
def Statement (i : Instr) : Prop :=
  ∃ r ∈ ownRows (encode i),
    r.entry.mnemonic = i.mnemonic ∧ r.entry.selects (encode i) = true ∧ r.build (encode i) = i

theorem mem_primary {raw : Word} {op : BitVec 6} {i : Nat} {r : TableRow} (hop : fieldPrimaryOpcode raw = op)
    (h : primaryRows[i]? = some r) (hn : (op ≠ 19 ∧ op ≠ 31 ∧ op ≠ 59 ∧ op ≠ 63) := by decide) : r ∈ ownRows raw := by
  obtain ⟨h1, h2, h3, h4⟩ := hn
  subst hop
  rw [ownRows, if_neg h1, if_neg h2, if_neg (not_or.mpr ⟨h3, h4⟩)]
  exact List.mem_of_getElem? h

theorem mem_xl {raw : Word} {i : Nat} {r : TableRow} (hop : fieldPrimaryOpcode raw = 19)
    (h : xlRows[i]? = some r) : r ∈ ownRows raw := by
  rw [ownRows, if_pos hop]
  exact List.mem_of_getElem? h

theorem mem_x {raw : Word} {i : Nat} {r : TableRow} (hop : fieldPrimaryOpcode raw = 31)
    (h : (xRows ++ xfxRows)[i]? = some r) : r ∈ ownRows raw := by
  rw [ownRows, if_neg (by rw [hop]; decide), if_pos hop]
  exact List.mem_of_getElem? h

theorem mem_xfx {raw : Word} {i : Nat} {r : TableRow} (hop : fieldPrimaryOpcode raw = 31)
    (h : (xRows ++ xfxRows)[i]? = some r) : r ∈ ownRows raw := mem_x hop h

theorem mem_a {raw : Word} {op : BitVec 6} {i : Nat} {r : TableRow} (hop : fieldPrimaryOpcode raw = op)
    (h : aRows[i]? = some r) (hn : (op = 59 ∨ op = 63) := by decide) : r ∈ ownRows raw := by
  subst hop
  rw [ownRows, if_neg (by rcases hn with hn | hn <;> rw [hn] <;> decide),
    if_neg (by rcases hn with hn | hn <;> rw [hn] <;> decide), if_pos hn]
  exact List.mem_of_getElem? h

theorem tdi (rt ra : RegIndex) (imm : BitVec 16) : Statement (.tdi rt ra imm) :=
  ⟨_, mem_primary (i := 0) (fieldPrimaryOpcode_layoutD 2#6 _ _ _) rfl, rfl,
    selects_layoutD 2#6 _ _ _ rfl, buildD_layoutD _ 2#6 _ _ _⟩

theorem twi (rt ra : RegIndex) (imm : BitVec 16) : Statement (.twi rt ra imm) :=
  ⟨_, mem_primary (i := 1) (fieldPrimaryOpcode_layoutD 3#6 _ _ _) rfl, rfl,
    selects_layoutD 3#6 _ _ _ rfl, buildD_layoutD _ 3#6 _ _ _⟩

theorem mulli (rt ra : RegIndex) (imm : BitVec 16) : Statement (.mulli rt ra imm) :=
  ⟨_, mem_primary (i := 2) (fieldPrimaryOpcode_layoutD 7#6 _ _ _) rfl, rfl,
    selects_layoutD 7#6 _ _ _ rfl, buildD_layoutD _ 7#6 _ _ _⟩

theorem subfic (rt ra : RegIndex) (imm : BitVec 16) : Statement (.subfic rt ra imm) :=
  ⟨_, mem_primary (i := 3) (fieldPrimaryOpcode_layoutD 8#6 _ _ _) rfl, rfl,
    selects_layoutD 8#6 _ _ _ rfl, buildD_layoutD _ 8#6 _ _ _⟩

theorem cmpli (rt ra : RegIndex) (imm : BitVec 16) : Statement (.cmpli rt ra imm) :=
  ⟨_, mem_primary (i := 4) (fieldPrimaryOpcode_layoutD 10#6 _ _ _) rfl, rfl,
    selects_layoutD 10#6 _ _ _ rfl, buildD_layoutD _ 10#6 _ _ _⟩

theorem cmpi (rt ra : RegIndex) (imm : BitVec 16) : Statement (.cmpi rt ra imm) :=
  ⟨_, mem_primary (i := 5) (fieldPrimaryOpcode_layoutD 11#6 _ _ _) rfl, rfl,
    selects_layoutD 11#6 _ _ _ rfl, buildD_layoutD _ 11#6 _ _ _⟩

theorem addic (rt ra : RegIndex) (imm : BitVec 16) : Statement (.addic rt ra imm) :=
  ⟨_, mem_primary (i := 6) (fieldPrimaryOpcode_layoutD 12#6 _ _ _) rfl, rfl,
    selects_layoutD 12#6 _ _ _ rfl, buildD_layoutD _ 12#6 _ _ _⟩

theorem addicDot (rt ra : RegIndex) (imm : BitVec 16) : Statement (.addicDot rt ra imm) :=
  ⟨_, mem_primary (i := 7) (fieldPrimaryOpcode_layoutD 13#6 _ _ _) rfl, rfl,
    selects_layoutD 13#6 _ _ _ rfl, buildD_layoutD _ 13#6 _ _ _⟩

theorem addi (rt ra : RegIndex) (imm : BitVec 16) : Statement (.addi rt ra imm) :=
  ⟨_, mem_primary (i := 8) (fieldPrimaryOpcode_layoutD 14#6 _ _ _) rfl, rfl,
    selects_layoutD 14#6 _ _ _ rfl, buildD_layoutD _ 14#6 _ _ _⟩

theorem addis (rt ra : RegIndex) (imm : BitVec 16) : Statement (.addis rt ra imm) :=
  ⟨_, mem_primary (i := 9) (fieldPrimaryOpcode_layoutD 15#6 _ _ _) rfl, rfl,
    selects_layoutD 15#6 _ _ _ rfl, buildD_layoutD _ 15#6 _ _ _⟩

theorem bc (bt ba : RegIndex) (bd : BitVec 14) (aa lk : Bool) : Statement (.bc bt ba bd aa lk) :=
  ⟨_, mem_primary (i := 10) (fieldPrimaryOpcode_layoutB 16#6 _ _ _ _ _) rfl, rfl,
    selects_layoutB 16#6 _ _ _ _ _ rfl, buildB_layoutB _ 16#6 _ _ _ _ _⟩

theorem sc (low : BitVec 26) : Statement (.sc low) :=
  ⟨_, mem_primary (i := 11) (fieldPrimaryOpcode_layoutSc 17#6 _) rfl, rfl,
    selects_layoutSc 17#6 _ rfl, buildSc_layoutSc _ 17#6 _⟩

theorem b (li : BitVec 24) (aa lk : Bool) : Statement (.b li aa lk) :=
  ⟨_, mem_primary (i := 12) (fieldPrimaryOpcode_layoutI 18#6 _ _ _) rfl, rfl,
    selects_layoutI 18#6 _ _ _ rfl, buildI_layoutI _ 18#6 _ _ _⟩

theorem rlwimi (rt ra sh mb me : RegIndex) (rc : Bool) : Statement (.rlwimi rt ra sh mb me rc) :=
  ⟨_, mem_primary (i := 13) (fieldPrimaryOpcode_layoutM 20#6 _ _ _ _ _ _) rfl, rfl,
    selects_layoutM 20#6 _ _ _ _ _ _ rfl, buildM_layoutM _ 20#6 _ _ _ _ _ _⟩

theorem rlwinm (rt ra sh mb me : RegIndex) (rc : Bool) : Statement (.rlwinm rt ra sh mb me rc) :=
  ⟨_, mem_primary (i := 14) (fieldPrimaryOpcode_layoutM 21#6 _ _ _ _ _ _) rfl, rfl,
    selects_layoutM 21#6 _ _ _ _ _ _ rfl, buildM_layoutM _ 21#6 _ _ _ _ _ _⟩

theorem rlwnm (rt ra sh mb me : RegIndex) (rc : Bool) : Statement (.rlwnm rt ra sh mb me rc) :=
  ⟨_, mem_primary (i := 15) (fieldPrimaryOpcode_layoutM 23#6 _ _ _ _ _ _) rfl, rfl,
    selects_layoutM 23#6 _ _ _ _ _ _ rfl, buildM_layoutM _ 23#6 _ _ _ _ _ _⟩

theorem ori (rt ra : RegIndex) (imm : BitVec 16) : Statement (.ori rt ra imm) :=
  ⟨_, mem_primary (i := 16) (fieldPrimaryOpcode_layoutD 24#6 _ _ _) rfl, rfl,
    selects_layoutD 24#6 _ _ _ rfl, buildD_layoutD _ 24#6 _ _ _⟩

theorem oris (rt ra : RegIndex) (imm : BitVec 16) : Statement (.oris rt ra imm) :=
  ⟨_, mem_primary (i := 17) (fieldPrimaryOpcode_layoutD 25#6 _ _ _) rfl, rfl,
    selects_layoutD 25#6 _ _ _ rfl, buildD_layoutD _ 25#6 _ _ _⟩

theorem xori (rt ra : RegIndex) (imm : BitVec 16) : Statement (.xori rt ra imm) :=
  ⟨_, mem_primary (i := 18) (fieldPrimaryOpcode_layoutD 26#6 _ _ _) rfl, rfl,
    selects_layoutD 26#6 _ _ _ rfl, buildD_layoutD _ 26#6 _ _ _⟩

theorem xoris (rt ra : RegIndex) (imm : BitVec 16) : Statement (.xoris rt ra imm) :=
  ⟨_, mem_primary (i := 19) (fieldPrimaryOpcode_layoutD 27#6 _ _ _) rfl, rfl,
    selects_layoutD 27#6 _ _ _ rfl, buildD_layoutD _ 27#6 _ _ _⟩

theorem andiDot (rt ra : RegIndex) (imm : BitVec 16) : Statement (.andiDot rt ra imm) :=
  ⟨_, mem_primary (i := 20) (fieldPrimaryOpcode_layoutD 28#6 _ _ _) rfl, rfl,
    selects_layoutD 28#6 _ _ _ rfl, buildD_layoutD _ 28#6 _ _ _⟩

theorem andisDot (rt ra : RegIndex) (imm : BitVec 16) : Statement (.andisDot rt ra imm) :=
  ⟨_, mem_primary (i := 21) (fieldPrimaryOpcode_layoutD 29#6 _ _ _) rfl, rfl,
    selects_layoutD 29#6 _ _ _ rfl, buildD_layoutD _ 29#6 _ _ _⟩

theorem rldicl (rt ra rb : RegIndex) (mid : BitVec 6) (low : BitVec 2) : Statement (.rldicl rt ra rb mid low) :=
  ⟨_, mem_primary (i := 22) (fieldPrimaryOpcode_layoutMd 30#6 0#3 _ _ _ _ _) rfl, rfl,
    selects_layoutMd 30#6 0#3 _ _ _ _ _ rfl, buildMd_layoutMd _ 30#6 0#3 _ _ _ _ _⟩

theorem rldicr (rt ra rb : RegIndex) (mid : BitVec 6) (low : BitVec 2) : Statement (.rldicr rt ra rb mid low) :=
  ⟨_, mem_primary (i := 23) (fieldPrimaryOpcode_layoutMd 30#6 1#3 _ _ _ _ _) rfl, rfl,
    selects_layoutMd 30#6 1#3 _ _ _ _ _ rfl, buildMd_layoutMd _ 30#6 1#3 _ _ _ _ _⟩

theorem rldic (rt ra rb : RegIndex) (mid : BitVec 6) (low : BitVec 2) : Statement (.rldic rt ra rb mid low) :=
  ⟨_, mem_primary (i := 24) (fieldPrimaryOpcode_layoutMd 30#6 2#3 _ _ _ _ _) rfl, rfl,
    selects_layoutMd 30#6 2#3 _ _ _ _ _ rfl, buildMd_layoutMd _ 30#6 2#3 _ _ _ _ _⟩

theorem rldimi (rt ra rb : RegIndex) (mid : BitVec 6) (low : BitVec 2) : Statement (.rldimi rt ra rb mid low) :=
  ⟨_, mem_primary (i := 25) (fieldPrimaryOpcode_layoutMd 30#6 3#3 _ _ _ _ _) rfl, rfl,
    selects_layoutMd 30#6 3#3 _ _ _ _ _ rfl, buildMd_layoutMd _ 30#6 3#3 _ _ _ _ _⟩

theorem rldcl (rt ra rb : RegIndex) (mid : BitVec 6) (rc : Bool) : Statement (.rldcl rt ra rb mid rc) :=
  ⟨_, mem_primary (i := 26) (fieldPrimaryOpcode_layoutMds 30#6 8#4 _ _ _ _ _) rfl, rfl,
    selects_layoutMds 30#6 8#4 _ _ _ _ _ rfl, buildMds_layoutMds _ 30#6 8#4 _ _ _ _ _⟩

theorem rldcr (rt ra rb : RegIndex) (mid : BitVec 6) (rc : Bool) : Statement (.rldcr rt ra rb mid rc) :=
  ⟨_, mem_primary (i := 27) (fieldPrimaryOpcode_layoutMds 30#6 9#4 _ _ _ _ _) rfl, rfl,
    selects_layoutMds 30#6 9#4 _ _ _ _ _ rfl, buildMds_layoutMds _ 30#6 9#4 _ _ _ _ _⟩

theorem lwz (rt ra : RegIndex) (imm : BitVec 16) : Statement (.lwz rt ra imm) :=
  ⟨_, mem_primary (i := 28) (fieldPrimaryOpcode_layoutD 32#6 _ _ _) rfl, rfl,
    selects_layoutD 32#6 _ _ _ rfl, buildD_layoutD _ 32#6 _ _ _⟩

theorem lwzu (rt ra : RegIndex) (imm : BitVec 16) : Statement (.lwzu rt ra imm) :=
  ⟨_, mem_primary (i := 29) (fieldPrimaryOpcode_layoutD 33#6 _ _ _) rfl, rfl,
    selects_layoutD 33#6 _ _ _ rfl, buildD_layoutD _ 33#6 _ _ _⟩

theorem lbz (rt ra : RegIndex) (imm : BitVec 16) : Statement (.lbz rt ra imm) :=
  ⟨_, mem_primary (i := 30) (fieldPrimaryOpcode_layoutD 34#6 _ _ _) rfl, rfl,
    selects_layoutD 34#6 _ _ _ rfl, buildD_layoutD _ 34#6 _ _ _⟩

theorem lbzu (rt ra : RegIndex) (imm : BitVec 16) : Statement (.lbzu rt ra imm) :=
  ⟨_, mem_primary (i := 31) (fieldPrimaryOpcode_layoutD 35#6 _ _ _) rfl, rfl,
    selects_layoutD 35#6 _ _ _ rfl, buildD_layoutD _ 35#6 _ _ _⟩

theorem stw (rt ra : RegIndex) (imm : BitVec 16) : Statement (.stw rt ra imm) :=
  ⟨_, mem_primary (i := 32) (fieldPrimaryOpcode_layoutD 36#6 _ _ _) rfl, rfl,
    selects_layoutD 36#6 _ _ _ rfl, buildD_layoutD _ 36#6 _ _ _⟩

theorem stwu (rt ra : RegIndex) (imm : BitVec 16) : Statement (.stwu rt ra imm) :=
  ⟨_, mem_primary (i := 33) (fieldPrimaryOpcode_layoutD 37#6 _ _ _) rfl, rfl,
    selects_layoutD 37#6 _ _ _ rfl, buildD_layoutD _ 37#6 _ _ _⟩

theorem stb (rt ra : RegIndex) (imm : BitVec 16) : Statement (.stb rt ra imm) :=
  ⟨_, mem_primary (i := 34) (fieldPrimaryOpcode_layoutD 38#6 _ _ _) rfl, rfl,
    selects_layoutD 38#6 _ _ _ rfl, buildD_layoutD _ 38#6 _ _ _⟩

theorem stbu (rt ra : RegIndex) (imm : BitVec 16) : Statement (.stbu rt ra imm) :=
  ⟨_, mem_primary (i := 35) (fieldPrimaryOpcode_layoutD 39#6 _ _ _) rfl, rfl,
    selects_layoutD 39#6 _ _ _ rfl, buildD_layoutD _ 39#6 _ _ _⟩

theorem lhz (rt ra : RegIndex) (imm : BitVec 16) : Statement (.lhz rt ra imm) :=
  ⟨_, mem_primary (i := 36) (fieldPrimaryOpcode_layoutD 40#6 _ _ _) rfl, rfl,
    selects_layoutD 40#6 _ _ _ rfl, buildD_layoutD _ 40#6 _ _ _⟩

theorem lhzu (rt ra : RegIndex) (imm : BitVec 16) : Statement (.lhzu rt ra imm) :=
  ⟨_, mem_primary (i := 37) (fieldPrimaryOpcode_layoutD 41#6 _ _ _) rfl, rfl,
    selects_layoutD 41#6 _ _ _ rfl, buildD_layoutD _ 41#6 _ _ _⟩

theorem lha (rt ra : RegIndex) (imm : BitVec 16) : Statement (.lha rt ra imm) :=
  ⟨_, mem_primary (i := 38) (fieldPrimaryOpcode_layoutD 42#6 _ _ _) rfl, rfl,
    selects_layoutD 42#6 _ _ _ rfl, buildD_layoutD _ 42#6 _ _ _⟩

theorem lhau (rt ra : RegIndex) (imm : BitVec 16) : Statement (.lhau rt ra imm) :=
  ⟨_, mem_primary (i := 39) (fieldPrimaryOpcode_layoutD 43#6 _ _ _) rfl, rfl,
    selects_layoutD 43#6 _ _ _ rfl, buildD_layoutD _ 43#6 _ _ _⟩

theorem sth (rt ra : RegIndex) (imm : BitVec 16) : Statement (.sth rt ra imm) :=
  ⟨_, mem_primary (i := 40) (fieldPrimaryOpcode_layoutD 44#6 _ _ _) rfl, rfl,
    selects_layoutD 44#6 _ _ _ rfl, buildD_layoutD _ 44#6 _ _ _⟩

theorem sthu (rt ra : RegIndex) (imm : BitVec 16) : Statement (.sthu rt ra imm) :=
  ⟨_, mem_primary (i := 41) (fieldPrimaryOpcode_layoutD 45#6 _ _ _) rfl, rfl,
    selects_layoutD 45#6 _ _ _ rfl, buildD_layoutD _ 45#6 _ _ _⟩

theorem lmw (rt ra : RegIndex) (imm : BitVec 16) : Statement (.lmw rt ra imm) :=
  ⟨_, mem_primary (i := 42) (fieldPrimaryOpcode_layoutD 46#6 _ _ _) rfl, rfl,
    selects_layoutD 46#6 _ _ _ rfl, buildD_layoutD _ 46#6 _ _ _⟩

theorem stmw (rt ra : RegIndex) (imm : BitVec 16) : Statement (.stmw rt ra imm) :=
  ⟨_, mem_primary (i := 43) (fieldPrimaryOpcode_layoutD 47#6 _ _ _) rfl, rfl,
    selects_layoutD 47#6 _ _ _ rfl, buildD_layoutD _ 47#6 _ _ _⟩

theorem lfs (rt ra : RegIndex) (imm : BitVec 16) : Statement (.lfs rt ra imm) :=
  ⟨_, mem_primary (i := 44) (fieldPrimaryOpcode_layoutD 48#6 _ _ _) rfl, rfl,
    selects_layoutD 48#6 _ _ _ rfl, buildD_layoutD _ 48#6 _ _ _⟩

theorem lfsu (rt ra : RegIndex) (imm : BitVec 16) : Statement (.lfsu rt ra imm) :=
  ⟨_, mem_primary (i := 45) (fieldPrimaryOpcode_layoutD 49#6 _ _ _) rfl, rfl,
    selects_layoutD 49#6 _ _ _ rfl, buildD_layoutD _ 49#6 _ _ _⟩

theorem lfd (rt ra : RegIndex) (imm : BitVec 16) : Statement (.lfd rt ra imm) :=
  ⟨_, mem_primary (i := 46) (fieldPrimaryOpcode_layoutD 50#6 _ _ _) rfl, rfl,
    selects_layoutD 50#6 _ _ _ rfl, buildD_layoutD _ 50#6 _ _ _⟩

theorem lfdu (rt ra : RegIndex) (imm : BitVec 16) : Statement (.lfdu rt ra imm) :=
  ⟨_, mem_primary (i := 47) (fieldPrimaryOpcode_layoutD 51#6 _ _ _) rfl, rfl,
    selects_layoutD 51#6 _ _ _ rfl, buildD_layoutD _ 51#6 _ _ _⟩

theorem stfs (rt ra : RegIndex) (imm : BitVec 16) : Statement (.stfs rt ra imm) :=
  ⟨_, mem_primary (i := 48) (fieldPrimaryOpcode_layoutD 52#6 _ _ _) rfl, rfl,
    selects_layoutD 52#6 _ _ _ rfl, buildD_layoutD _ 52#6 _ _ _⟩

theorem stfsu (rt ra : RegIndex) (imm : BitVec 16) : Statement (.stfsu rt ra imm) :=
  ⟨_, mem_primary (i := 49) (fieldPrimaryOpcode_layoutD 53#6 _ _ _) rfl, rfl,
    selects_layoutD 53#6 _ _ _ rfl, buildD_layoutD _ 53#6 _ _ _⟩

theorem stfd (rt ra : RegIndex) (imm : BitVec 16) : Statement (.stfd rt ra imm) :=
  ⟨_, mem_primary (i := 50) (fieldPrimaryOpcode_layoutD 54#6 _ _ _) rfl, rfl,
    selects_layoutD 54#6 _ _ _ rfl, buildD_layoutD _ 54#6 _ _ _⟩

theorem stfdu (rt ra : RegIndex) (imm : BitVec 16) : Statement (.stfdu rt ra imm) :=
  ⟨_, mem_primary (i := 51) (fieldPrimaryOpcode_layoutD 55#6 _ _ _) rfl, rfl,
    selects_layoutD 55#6 _ _ _ rfl, buildD_layoutD _ 55#6 _ _ _⟩

theorem ld (rt ra : RegIndex) (ds : BitVec 14) : Statement (.ld rt ra ds) :=
  ⟨_, mem_primary (i := 52) (fieldPrimaryOpcode_layoutDs 58#6 0#2 _ _ _) rfl, rfl,
    selects_layoutDs 58#6 0#2 _ _ _ rfl, buildDs_layoutDs _ 58#6 0#2 _ _ _⟩

theorem ldu (rt ra : RegIndex) (ds : BitVec 14) : Statement (.ldu rt ra ds) :=
  ⟨_, mem_primary (i := 53) (fieldPrimaryOpcode_layoutDs 58#6 1#2 _ _ _) rfl, rfl,
    selects_layoutDs 58#6 1#2 _ _ _ rfl, buildDs_layoutDs _ 58#6 1#2 _ _ _⟩

theorem lwa (rt ra : RegIndex) (ds : BitVec 14) : Statement (.lwa rt ra ds) :=
  ⟨_, mem_primary (i := 54) (fieldPrimaryOpcode_layoutDs 58#6 2#2 _ _ _) rfl, rfl,
    selects_layoutDs 58#6 2#2 _ _ _ rfl, buildDs_layoutDs _ 58#6 2#2 _ _ _⟩

theorem std (rt ra : RegIndex) (ds : BitVec 14) : Statement (.std rt ra ds) :=
  ⟨_, mem_primary (i := 55) (fieldPrimaryOpcode_layoutDs 62#6 0#2 _ _ _) rfl, rfl,
    selects_layoutDs 62#6 0#2 _ _ _ rfl, buildDs_layoutDs _ 62#6 0#2 _ _ _⟩

theorem stdu (rt ra : RegIndex) (ds : BitVec 14) : Statement (.stdu rt ra ds) :=
  ⟨_, mem_primary (i := 56) (fieldPrimaryOpcode_layoutDs 62#6 1#2 _ _ _) rfl, rfl,
    selects_layoutDs 62#6 1#2 _ _ _ rfl, buildDs_layoutDs _ 62#6 1#2 _ _ _⟩

theorem mcrf (bt ba bb : RegIndex) (lk : Bool) : Statement (.mcrf bt ba bb lk) :=
  ⟨_, mem_xl (i := 0) (fieldPrimaryOpcode_layoutXl 19#6 0#10 _ _ _ _) rfl, rfl,
    selects_layoutXl 19#6 0#10 _ _ _ _ rfl, buildXl_layoutXl _ 19#6 0#10 _ _ _ _⟩

theorem bclr (bt ba bb : RegIndex) (lk : Bool) : Statement (.bclr bt ba bb lk) :=
  ⟨_, mem_xl (i := 1) (fieldPrimaryOpcode_layoutXl 19#6 16#10 _ _ _ _) rfl, rfl,
    selects_layoutXl 19#6 16#10 _ _ _ _ rfl, buildXl_layoutXl _ 19#6 16#10 _ _ _ _⟩

theorem crnor (bt ba bb : RegIndex) (lk : Bool) : Statement (.crnor bt ba bb lk) :=
  ⟨_, mem_xl (i := 2) (fieldPrimaryOpcode_layoutXl 19#6 33#10 _ _ _ _) rfl, rfl,
    selects_layoutXl 19#6 33#10 _ _ _ _ rfl, buildXl_layoutXl _ 19#6 33#10 _ _ _ _⟩

theorem rfi (bt ba bb : RegIndex) (lk : Bool) : Statement (.rfi bt ba bb lk) :=
  ⟨_, mem_xl (i := 3) (fieldPrimaryOpcode_layoutXl 19#6 50#10 _ _ _ _) rfl, rfl,
    selects_layoutXl 19#6 50#10 _ _ _ _ rfl, buildXl_layoutXl _ 19#6 50#10 _ _ _ _⟩

theorem crandc (bt ba bb : RegIndex) (lk : Bool) : Statement (.crandc bt ba bb lk) :=
  ⟨_, mem_xl (i := 4) (fieldPrimaryOpcode_layoutXl 19#6 129#10 _ _ _ _) rfl, rfl,
    selects_layoutXl 19#6 129#10 _ _ _ _ rfl, buildXl_layoutXl _ 19#6 129#10 _ _ _ _⟩

theorem isync (bt ba bb : RegIndex) (lk : Bool) : Statement (.isync bt ba bb lk) :=
  ⟨_, mem_xl (i := 5) (fieldPrimaryOpcode_layoutXl 19#6 150#10 _ _ _ _) rfl, rfl,
    selects_layoutXl 19#6 150#10 _ _ _ _ rfl, buildXl_layoutXl _ 19#6 150#10 _ _ _ _⟩

theorem crxor (bt ba bb : RegIndex) (lk : Bool) : Statement (.crxor bt ba bb lk) :=
  ⟨_, mem_xl (i := 6) (fieldPrimaryOpcode_layoutXl 19#6 193#10 _ _ _ _) rfl, rfl,
    selects_layoutXl 19#6 193#10 _ _ _ _ rfl, buildXl_layoutXl _ 19#6 193#10 _ _ _ _⟩

theorem crnand (bt ba bb : RegIndex) (lk : Bool) : Statement (.crnand bt ba bb lk) :=
  ⟨_, mem_xl (i := 7) (fieldPrimaryOpcode_layoutXl 19#6 225#10 _ _ _ _) rfl, rfl,
    selects_layoutXl 19#6 225#10 _ _ _ _ rfl, buildXl_layoutXl _ 19#6 225#10 _ _ _ _⟩

theorem crand (bt ba bb : RegIndex) (lk : Bool) : Statement (.crand bt ba bb lk) :=
  ⟨_, mem_xl (i := 8) (fieldPrimaryOpcode_layoutXl 19#6 257#10 _ _ _ _) rfl, rfl,
    selects_layoutXl 19#6 257#10 _ _ _ _ rfl, buildXl_layoutXl _ 19#6 257#10 _ _ _ _⟩

theorem creqv (bt ba bb : RegIndex) (lk : Bool) : Statement (.creqv bt ba bb lk) :=
  ⟨_, mem_xl (i := 9) (fieldPrimaryOpcode_layoutXl 19#6 289#10 _ _ _ _) rfl, rfl,
    selects_layoutXl 19#6 289#10 _ _ _ _ rfl, buildXl_layoutXl _ 19#6 289#10 _ _ _ _⟩

theorem crorc (bt ba bb : RegIndex) (lk : Bool) : Statement (.crorc bt ba bb lk) :=
  ⟨_, mem_xl (i := 10) (fieldPrimaryOpcode_layoutXl 19#6 417#10 _ _ _ _) rfl, rfl,
    selects_layoutXl 19#6 417#10 _ _ _ _ rfl, buildXl_layoutXl _ 19#6 417#10 _ _ _ _⟩

theorem cror (bt ba bb : RegIndex) (lk : Bool) : Statement (.cror bt ba bb lk) :=
  ⟨_, mem_xl (i := 11) (fieldPrimaryOpcode_layoutXl 19#6 449#10 _ _ _ _) rfl, rfl,
    selects_layoutXl 19#6 449#10 _ _ _ _ rfl, buildXl_layoutXl _ 19#6 449#10 _ _ _ _⟩

theorem bcctr (bt ba bb : RegIndex) (lk : Bool) : Statement (.bcctr bt ba bb lk) :=
  ⟨_, mem_xl (i := 12) (fieldPrimaryOpcode_layoutXl 19#6 528#10 _ _ _ _) rfl, rfl,
    selects_layoutXl 19#6 528#10 _ _ _ _ rfl, buildXl_layoutXl _ 19#6 528#10 _ _ _ _⟩

theorem cmp (rt ra rb : RegIndex) (rc : Bool) : Statement (.cmp rt ra rb rc) :=
  ⟨_, mem_x (i := 0) (fieldPrimaryOpcode_layoutX 31#6 0#10 _ _ _ _) rfl, rfl,
    selects_layoutX 31#6 0#10 _ _ _ _ rfl, buildX_layoutX _ 31#6 0#10 _ _ _ _⟩

theorem tw (rt ra rb : RegIndex) (rc : Bool) : Statement (.tw rt ra rb rc) :=
  ⟨_, mem_x (i := 1) (fieldPrimaryOpcode_layoutX 31#6 4#10 _ _ _ _) rfl, rfl,
    selects_layoutX 31#6 4#10 _ _ _ _ rfl, buildX_layoutX _ 31#6 4#10 _ _ _ _⟩

theorem subfc (rt ra rb : RegIndex) (oe rc : Bool) : Statement (.subfc rt ra rb oe rc) :=
  ⟨_, mem_x (i := 2) (fieldPrimaryOpcode_layoutXo 31#6 8#9 _ _ _ _ _) rfl, rfl,
    selects_layoutXo 31#6 8#9 _ _ _ _ _ rfl, buildXo_layoutXo _ 31#6 8#9 _ _ _ _ _⟩

theorem addc (rt ra rb : RegIndex) (oe rc : Bool) : Statement (.addc rt ra rb oe rc) :=
  ⟨_, mem_x (i := 3) (fieldPrimaryOpcode_layoutXo 31#6 10#9 _ _ _ _ _) rfl, rfl,
    selects_layoutXo 31#6 10#9 _ _ _ _ _ rfl, buildXo_layoutXo _ 31#6 10#9 _ _ _ _ _⟩

theorem mulhwu (rt ra rb : RegIndex) (rc : Bool) : Statement (.mulhwu rt ra rb rc) :=
  ⟨_, mem_x (i := 4) (fieldPrimaryOpcode_layoutX 31#6 11#10 _ _ _ _) rfl, rfl,
    selects_layoutX 31#6 11#10 _ _ _ _ rfl, buildX_layoutX _ 31#6 11#10 _ _ _ _⟩

theorem lwarx (rt ra rb : RegIndex) (rc : Bool) : Statement (.lwarx rt ra rb rc) :=
  ⟨_, mem_x (i := 5) (fieldPrimaryOpcode_layoutX 31#6 20#10 _ _ _ _) rfl, rfl,
    selects_layoutX 31#6 20#10 _ _ _ _ rfl, buildX_layoutX _ 31#6 20#10 _ _ _ _⟩

theorem lwzx (rt ra rb : RegIndex) (rc : Bool) : Statement (.lwzx rt ra rb rc) :=
  ⟨_, mem_x (i := 6) (fieldPrimaryOpcode_layoutX 31#6 23#10 _ _ _ _) rfl, rfl,
    selects_layoutX 31#6 23#10 _ _ _ _ rfl, buildX_layoutX _ 31#6 23#10 _ _ _ _⟩

theorem slw (rt ra rb : RegIndex) (rc : Bool) : Statement (.slw rt ra rb rc) :=
  ⟨_, mem_x (i := 7) (fieldPrimaryOpcode_layoutX 31#6 24#10 _ _ _ _) rfl, rfl,
    selects_layoutX 31#6 24#10 _ _ _ _ rfl, buildX_layoutX _ 31#6 24#10 _ _ _ _⟩

theorem cntlzw (rt ra rb : RegIndex) (rc : Bool) : Statement (.cntlzw rt ra rb rc) :=
  ⟨_, mem_x (i := 8) (fieldPrimaryOpcode_layoutX 31#6 26#10 _ _ _ _) rfl, rfl,
    selects_layoutX 31#6 26#10 _ _ _ _ rfl, buildX_layoutX _ 31#6 26#10 _ _ _ _⟩

theorem and (rt ra rb : RegIndex) (rc : Bool) : Statement (.and rt ra rb rc) :=
  ⟨_, mem_x (i := 9) (fieldPrimaryOpcode_layoutX 31#6 28#10 _ _ _ _) rfl, rfl,
    selects_layoutX 31#6 28#10 _ _ _ _ rfl, buildX_layoutX _ 31#6 28#10 _ _ _ _⟩

theorem cmpl (rt ra rb : RegIndex) (rc : Bool) : Statement (.cmpl rt ra rb rc) :=
  ⟨_, mem_x (i := 10) (fieldPrimaryOpcode_layoutX 31#6 32#10 _ _ _ _) rfl, rfl,
    selects_layoutX 31#6 32#10 _ _ _ _ rfl, buildX_layoutX _ 31#6 32#10 _ _ _ _⟩

theorem subf (rt ra rb : RegIndex) (oe rc : Bool) : Statement (.subf rt ra rb oe rc) :=
  ⟨_, mem_x (i := 11) (fieldPrimaryOpcode_layoutXo 31#6 40#9 _ _ _ _ _) rfl, rfl,
    selects_layoutXo 31#6 40#9 _ _ _ _ _ rfl, buildXo_layoutXo _ 31#6 40#9 _ _ _ _ _⟩

theorem dcbst (rt ra rb : RegIndex) (rc : Bool) : Statement (.dcbst rt ra rb rc) :=
  ⟨_, mem_x (i := 12) (fieldPrimaryOpcode_layoutX 31#6 54#10 _ _ _ _) rfl, rfl,
    selects_layoutX 31#6 54#10 _ _ _ _ rfl, buildX_layoutX _ 31#6 54#10 _ _ _ _⟩

theorem lwzux (rt ra rb : RegIndex) (rc : Bool) : Statement (.lwzux rt ra rb rc) :=
  ⟨_, mem_x (i := 13) (fieldPrimaryOpcode_layoutX 31#6 55#10 _ _ _ _) rfl, rfl,
    selects_layoutX 31#6 55#10 _ _ _ _ rfl, buildX_layoutX _ 31#6 55#10 _ _ _ _⟩

theorem andc (rt ra rb : RegIndex) (rc : Bool) : Statement (.andc rt ra rb rc) :=
  ⟨_, mem_x (i := 14) (fieldPrimaryOpcode_layoutX 31#6 60#10 _ _ _ _) rfl, rfl,
    selects_layoutX 31#6 60#10 _ _ _ _ rfl, buildX_layoutX _ 31#6 60#10 _ _ _ _⟩

theorem mulhw (rt ra rb : RegIndex) (rc : Bool) : Statement (.mulhw rt ra rb rc) :=
  ⟨_, mem_x (i := 15) (fieldPrimaryOpcode_layoutX 31#6 75#10 _ _ _ _) rfl, rfl,
    selects_layoutX 31#6 75#10 _ _ _ _ rfl, buildX_layoutX _ 31#6 75#10 _ _ _ _⟩

theorem mfmsr (rt ra rb : RegIndex) (rc : Bool) : Statement (.mfmsr rt ra rb rc) :=
  ⟨_, mem_x (i := 16) (fieldPrimaryOpcode_layoutX 31#6 83#10 _ _ _ _) rfl, rfl,
    selects_layoutX 31#6 83#10 _ _ _ _ rfl, buildX_layoutX _ 31#6 83#10 _ _ _ _⟩

theorem dcbf (rt ra rb : RegIndex) (rc : Bool) : Statement (.dcbf rt ra rb rc) :=
  ⟨_, mem_x (i := 17) (fieldPrimaryOpcode_layoutX 31#6 86#10 _ _ _ _) rfl, rfl,
    selects_layoutX 31#6 86#10 _ _ _ _ rfl, buildX_layoutX _ 31#6 86#10 _ _ _ _⟩

theorem lbzx (rt ra rb : RegIndex) (rc : Bool) : Statement (.lbzx rt ra rb rc) :=
  ⟨_, mem_x (i := 18) (fieldPrimaryOpcode_layoutX 31#6 87#10 _ _ _ _) rfl, rfl,
    selects_layoutX 31#6 87#10 _ _ _ _ rfl, buildX_layoutX _ 31#6 87#10 _ _ _ _⟩

theorem neg (rt ra rb : RegIndex) (oe rc : Bool) : Statement (.neg rt ra rb oe rc) :=
  ⟨_, mem_x (i := 19) (fieldPrimaryOpcode_layoutXo 31#6 104#9 _ _ _ _ _) rfl, rfl,
    selects_layoutXo 31#6 104#9 _ _ _ _ _ rfl, buildXo_layoutXo _ 31#6 104#9 _ _ _ _ _⟩

theorem lbzux (rt ra rb : RegIndex) (rc : Bool) : Statement (.lbzux rt ra rb rc) :=
  ⟨_, mem_x (i := 20) (fieldPrimaryOpcode_layoutX 31#6 119#10 _ _ _ _) rfl, rfl,
    selects_layoutX 31#6 119#10 _ _ _ _ rfl, buildX_layoutX _ 31#6 119#10 _ _ _ _⟩

theorem nor (rt ra rb : RegIndex) (rc : Bool) : Statement (.nor rt ra rb rc) :=
  ⟨_, mem_x (i := 21) (fieldPrimaryOpcode_layoutX 31#6 124#10 _ _ _ _) rfl, rfl,
    selects_layoutX 31#6 124#10 _ _ _ _ rfl, buildX_layoutX _ 31#6 124#10 _ _ _ _⟩

theorem subfe (rt ra rb : RegIndex) (oe rc : Bool) : Statement (.subfe rt ra rb oe rc) :=
  ⟨_, mem_x (i := 22) (fieldPrimaryOpcode_layoutXo 31#6 136#9 _ _ _ _ _) rfl, rfl,
    selects_layoutXo 31#6 136#9 _ _ _ _ _ rfl, buildXo_layoutXo _ 31#6 136#9 _ _ _ _ _⟩

theorem adde (rt ra rb : RegIndex) (oe rc : Bool) : Statement (.adde rt ra rb oe rc) :=
  ⟨_, mem_x (i := 23) (fieldPrimaryOpcode_layoutXo 31#6 138#9 _ _ _ _ _) rfl, rfl,
    selects_layoutXo 31#6 138#9 _ _ _ _ _ rfl, buildXo_layoutXo _ 31#6 138#9 _ _ _ _ _⟩

theorem mtmsr (rt ra rb : RegIndex) (rc : Bool) : Statement (.mtmsr rt ra rb rc) :=
  ⟨_, mem_x (i := 24) (fieldPrimaryOpcode_layoutX 31#6 146#10 _ _ _ _) rfl, rfl,
    selects_layoutX 31#6 146#10 _ _ _ _ rfl, buildX_layoutX _ 31#6 146#10 _ _ _ _⟩

theorem stwcxDot (rt ra rb : RegIndex) (rc : Bool) : Statement (.stwcxDot rt ra rb rc) :=
  ⟨_, mem_x (i := 25) (fieldPrimaryOpcode_layoutX 31#6 150#10 _ _ _ _) rfl, rfl,
    selects_layoutX 31#6 150#10 _ _ _ _ rfl, buildX_layoutX _ 31#6 150#10 _ _ _ _⟩

theorem stwx (rt ra rb : RegIndex) (rc : Bool) : Statement (.stwx rt ra rb rc) :=
  ⟨_, mem_x (i := 26) (fieldPrimaryOpcode_layoutX 31#6 151#10 _ _ _ _) rfl, rfl,
    selects_layoutX 31#6 151#10 _ _ _ _ rfl, buildX_layoutX _ 31#6 151#10 _ _ _ _⟩

theorem stwux (rt ra rb : RegIndex) (rc : Bool) : Statement (.stwux rt ra rb rc) :=
  ⟨_, mem_x (i := 27) (fieldPrimaryOpcode_layoutX 31#6 183#10 _ _ _ _) rfl, rfl,
    selects_layoutX 31#6 183#10 _ _ _ _ rfl, buildX_layoutX _ 31#6 183#10 _ _ _ _⟩

theorem subfze (rt ra rb : RegIndex) (oe rc : Bool) : Statement (.subfze rt ra rb oe rc) :=
  ⟨_, mem_x (i := 28) (fieldPrimaryOpcode_layoutXo 31#6 200#9 _ _ _ _ _) rfl, rfl,
    selects_layoutXo 31#6 200#9 _ _ _ _ _ rfl, buildXo_layoutXo _ 31#6 200#9 _ _ _ _ _⟩

theorem addze (rt ra rb : RegIndex) (oe rc : Bool) : Statement (.addze rt ra rb oe rc) :=
  ⟨_, mem_x (i := 29) (fieldPrimaryOpcode_layoutXo 31#6 202#9 _ _ _ _ _) rfl, rfl,
    selects_layoutXo 31#6 202#9 _ _ _ _ _ rfl, buildXo_layoutXo _ 31#6 202#9 _ _ _ _ _⟩

theorem mtsr (rt ra rb : RegIndex) (rc : Bool) : Statement (.mtsr rt ra rb rc) :=
  ⟨_, mem_x (i := 30) (fieldPrimaryOpcode_layoutX 31#6 210#10 _ _ _ _) rfl, rfl,
    selects_layoutX 31#6 210#10 _ _ _ _ rfl, buildX_layoutX _ 31#6 210#10 _ _ _ _⟩

theorem stbx (rt ra rb : RegIndex) (rc : Bool) : Statement (.stbx rt ra rb rc) :=
  ⟨_, mem_x (i := 31) (fieldPrimaryOpcode_layoutX 31#6 215#10 _ _ _ _) rfl, rfl,
    selects_layoutX 31#6 215#10 _ _ _ _ rfl, buildX_layoutX _ 31#6 215#10 _ _ _ _⟩

theorem subfme (rt ra rb : RegIndex) (oe rc : Bool) : Statement (.subfme rt ra rb oe rc) :=
  ⟨_, mem_x (i := 32) (fieldPrimaryOpcode_layoutXo 31#6 232#9 _ _ _ _ _) rfl, rfl,
    selects_layoutXo 31#6 232#9 _ _ _ _ _ rfl, buildXo_layoutXo _ 31#6 232#9 _ _ _ _ _⟩

theorem addme (rt ra rb : RegIndex) (oe rc : Bool) : Statement (.addme rt ra rb oe rc) :=
  ⟨_, mem_x (i := 33) (fieldPrimaryOpcode_layoutXo 31#6 234#9 _ _ _ _ _) rfl, rfl,
    selects_layoutXo 31#6 234#9 _ _ _ _ _ rfl, buildXo_layoutXo _ 31#6 234#9 _ _ _ _ _⟩

theorem mullw (rt ra rb : RegIndex) (oe rc : Bool) : Statement (.mullw rt ra rb oe rc) :=
  ⟨_, mem_x (i := 34) (fieldPrimaryOpcode_layoutXo 31#6 235#9 _ _ _ _ _) rfl, rfl,
    selects_layoutXo 31#6 235#9 _ _ _ _ _ rfl, buildXo_layoutXo _ 31#6 235#9 _ _ _ _ _⟩

theorem mtsrin (rt ra rb : RegIndex) (rc : Bool) : Statement (.mtsrin rt ra rb rc) :=
  ⟨_, mem_x (i := 35) (fieldPrimaryOpcode_layoutX 31#6 242#10 _ _ _ _) rfl, rfl,
    selects_layoutX 31#6 242#10 _ _ _ _ rfl, buildX_layoutX _ 31#6 242#10 _ _ _ _⟩

theorem dcbtst (rt ra rb : RegIndex) (rc : Bool) : Statement (.dcbtst rt ra rb rc) :=
  ⟨_, mem_x (i := 36) (fieldPrimaryOpcode_layoutX 31#6 246#10 _ _ _ _) rfl, rfl,
    selects_layoutX 31#6 246#10 _ _ _ _ rfl, buildX_layoutX _ 31#6 246#10 _ _ _ _⟩

theorem stbux (rt ra rb : RegIndex) (rc : Bool) : Statement (.stbux rt ra rb rc) :=
  ⟨_, mem_x (i := 37) (fieldPrimaryOpcode_layoutX 31#6 247#10 _ _ _ _) rfl, rfl,
    selects_layoutX 31#6 247#10 _ _ _ _ rfl, buildX_layoutX _ 31#6 247#10 _ _ _ _⟩

theorem add (rt ra rb : RegIndex) (oe rc : Bool) : Statement (.add rt ra rb oe rc) :=
  ⟨_, mem_x (i := 38) (fieldPrimaryOpcode_layoutXo 31#6 266#9 _ _ _ _ _) rfl, rfl,
    selects_layoutXo 31#6 266#9 _ _ _ _ _ rfl, buildXo_layoutXo _ 31#6 266#9 _ _ _ _ _⟩

theorem dcbt (rt ra rb : RegIndex) (rc : Bool) : Statement (.dcbt rt ra rb rc) :=
  ⟨_, mem_x (i := 39) (fieldPrimaryOpcode_layoutX 31#6 278#10 _ _ _ _) rfl, rfl,
    selects_layoutX 31#6 278#10 _ _ _ _ rfl, buildX_layoutX _ 31#6 278#10 _ _ _ _⟩

theorem lhzx (rt ra rb : RegIndex) (rc : Bool) : Statement (.lhzx rt ra rb rc) :=
  ⟨_, mem_x (i := 40) (fieldPrimaryOpcode_layoutX 31#6 279#10 _ _ _ _) rfl, rfl,
    selects_layoutX 31#6 279#10 _ _ _ _ rfl, buildX_layoutX _ 31#6 279#10 _ _ _ _⟩

theorem eqv (rt ra rb : RegIndex) (rc : Bool) : Statement (.eqv rt ra rb rc) :=
  ⟨_, mem_x (i := 41) (fieldPrimaryOpcode_layoutX 31#6 284#10 _ _ _ _) rfl, rfl,
    selects_layoutX 31#6 284#10 _ _ _ _ rfl, buildX_layoutX _ 31#6 284#10 _ _ _ _⟩

theorem tlbie (rt ra rb : RegIndex) (rc : Bool) : Statement (.tlbie rt ra rb rc) :=
  ⟨_, mem_x (i := 42) (fieldPrimaryOpcode_layoutX 31#6 306#10 _ _ _ _) rfl, rfl,
    selects_layoutX 31#6 306#10 _ _ _ _ rfl, buildX_layoutX _ 31#6 306#10 _ _ _ _⟩

theorem eciwx (rt ra rb : RegIndex) (rc : Bool) : Statement (.eciwx rt ra rb rc) :=
  ⟨_, mem_x (i := 43) (fieldPrimaryOpcode_layoutX 31#6 310#10 _ _ _ _) rfl, rfl,
    selects_layoutX 31#6 310#10 _ _ _ _ rfl, buildX_layoutX _ 31#6 310#10 _ _ _ _⟩

theorem lhzux (rt ra rb : RegIndex) (rc : Bool) : Statement (.lhzux rt ra rb rc) :=
  ⟨_, mem_x (i := 44) (fieldPrimaryOpcode_layoutX 31#6 311#10 _ _ _ _) rfl, rfl,
    selects_layoutX 31#6 311#10 _ _ _ _ rfl, buildX_layoutX _ 31#6 311#10 _ _ _ _⟩

theorem xor (rt ra rb : RegIndex) (rc : Bool) : Statement (.xor rt ra rb rc) :=
  ⟨_, mem_x (i := 45) (fieldPrimaryOpcode_layoutX 31#6 316#10 _ _ _ _) rfl, rfl,
    selects_layoutX 31#6 316#10 _ _ _ _ rfl, buildX_layoutX _ 31#6 316#10 _ _ _ _⟩

theorem lhax (rt ra rb : RegIndex) (rc : Bool) : Statement (.lhax rt ra rb rc) :=
  ⟨_, mem_x (i := 46) (fieldPrimaryOpcode_layoutX 31#6 343#10 _ _ _ _) rfl, rfl,
    selects_layoutX 31#6 343#10 _ _ _ _ rfl, buildX_layoutX _ 31#6 343#10 _ _ _ _⟩

theorem lhaux (rt ra rb : RegIndex) (rc : Bool) : Statement (.lhaux rt ra rb rc) :=
  ⟨_, mem_x (i := 47) (fieldPrimaryOpcode_layoutX 31#6 375#10 _ _ _ _) rfl, rfl,
    selects_layoutX 31#6 375#10 _ _ _ _ rfl, buildX_layoutX _ 31#6 375#10 _ _ _ _⟩

theorem sthx (rt ra rb : RegIndex) (rc : Bool) : Statement (.sthx rt ra rb rc) :=
  ⟨_, mem_x (i := 48) (fieldPrimaryOpcode_layoutX 31#6 407#10 _ _ _ _) rfl, rfl,
    selects_layoutX 31#6 407#10 _ _ _ _ rfl, buildX_layoutX _ 31#6 407#10 _ _ _ _⟩

theorem orc (rt ra rb : RegIndex) (rc : Bool) : Statement (.orc rt ra rb rc) :=
  ⟨_, mem_x (i := 49) (fieldPrimaryOpcode_layoutX 31#6 412#10 _ _ _ _) rfl, rfl,
    selects_layoutX 31#6 412#10 _ _ _ _ rfl, buildX_layoutX _ 31#6 412#10 _ _ _ _⟩

theorem ecowx (rt ra rb : RegIndex) (rc : Bool) : Statement (.ecowx rt ra rb rc) :=
  ⟨_, mem_x (i := 50) (fieldPrimaryOpcode_layoutX 31#6 438#10 _ _ _ _) rfl, rfl,
    selects_layoutX 31#6 438#10 _ _ _ _ rfl, buildX_layoutX _ 31#6 438#10 _ _ _ _⟩

theorem sthux (rt ra rb : RegIndex) (rc : Bool) : Statement (.sthux rt ra rb rc) :=
  ⟨_, mem_x (i := 51) (fieldPrimaryOpcode_layoutX 31#6 439#10 _ _ _ _) rfl, rfl,
    selects_layoutX 31#6 439#10 _ _ _ _ rfl, buildX_layoutX _ 31#6 439#10 _ _ _ _⟩

theorem or (rt ra rb : RegIndex) (rc : Bool) : Statement (.or rt ra rb rc) :=
  ⟨_, mem_x (i := 52) (fieldPrimaryOpcode_layoutX 31#6 444#10 _ _ _ _) rfl, rfl,
    selects_layoutX 31#6 444#10 _ _ _ _ rfl, buildX_layoutX _ 31#6 444#10 _ _ _ _⟩

theorem divwu (rt ra rb : RegIndex) (oe rc : Bool) : Statement (.divwu rt ra rb oe rc) :=
  ⟨_, mem_x (i := 53) (fieldPrimaryOpcode_layoutXo 31#6 459#9 _ _ _ _ _) rfl, rfl,
    selects_layoutXo 31#6 459#9 _ _ _ _ _ rfl, buildXo_layoutXo _ 31#6 459#9 _ _ _ _ _⟩

theorem dcbi (rt ra rb : RegIndex) (rc : Bool) : Statement (.dcbi rt ra rb rc) :=
  ⟨_, mem_x (i := 54) (fieldPrimaryOpcode_layoutX 31#6 470#10 _ _ _ _) rfl, rfl,
    selects_layoutX 31#6 470#10 _ _ _ _ rfl, buildX_layoutX _ 31#6 470#10 _ _ _ _⟩

theorem nand (rt ra rb : RegIndex) (rc : Bool) : Statement (.nand rt ra rb rc) :=
  ⟨_, mem_x (i := 55) (fieldPrimaryOpcode_layoutX 31#6 476#10 _ _ _ _) rfl, rfl,
    selects_layoutX 31#6 476#10 _ _ _ _ rfl, buildX_layoutX _ 31#6 476#10 _ _ _ _⟩

theorem divw (rt ra rb : RegIndex) (oe rc : Bool) : Statement (.divw rt ra rb oe rc) :=
  ⟨_, mem_x (i := 56) (fieldPrimaryOpcode_layoutXo 31#6 491#9 _ _ _ _ _) rfl, rfl,
    selects_layoutXo 31#6 491#9 _ _ _ _ _ rfl, buildXo_layoutXo _ 31#6 491#9 _ _ _ _ _⟩

theorem mcrxr (rt ra rb : RegIndex) (rc : Bool) : Statement (.mcrxr rt ra rb rc) :=
  ⟨_, mem_x (i := 57) (fieldPrimaryOpcode_layoutX 31#6 512#10 _ _ _ _) rfl, rfl,
    selects_layoutX 31#6 512#10 _ _ _ _ rfl, buildX_layoutX _ 31#6 512#10 _ _ _ _⟩

theorem lswx (rt ra rb : RegIndex) (rc : Bool) : Statement (.lswx rt ra rb rc) :=
  ⟨_, mem_x (i := 58) (fieldPrimaryOpcode_layoutX 31#6 533#10 _ _ _ _) rfl, rfl,
    selects_layoutX 31#6 533#10 _ _ _ _ rfl, buildX_layoutX _ 31#6 533#10 _ _ _ _⟩

theorem lwbrx (rt ra rb : RegIndex) (rc : Bool) : Statement (.lwbrx rt ra rb rc) :=
  ⟨_, mem_x (i := 59) (fieldPrimaryOpcode_layoutX 31#6 534#10 _ _ _ _) rfl, rfl,
    selects_layoutX 31#6 534#10 _ _ _ _ rfl, buildX_layoutX _ 31#6 534#10 _ _ _ _⟩

theorem lfsx (rt ra rb : RegIndex) (rc : Bool) : Statement (.lfsx rt ra rb rc) :=
  ⟨_, mem_x (i := 60) (fieldPrimaryOpcode_layoutX 31#6 535#10 _ _ _ _) rfl, rfl,
    selects_layoutX 31#6 535#10 _ _ _ _ rfl, buildX_layoutX _ 31#6 535#10 _ _ _ _⟩

theorem srw (rt ra rb : RegIndex) (rc : Bool) : Statement (.srw rt ra rb rc) :=
  ⟨_, mem_x (i := 61) (fieldPrimaryOpcode_layoutX 31#6 536#10 _ _ _ _) rfl, rfl,
    selects_layoutX 31#6 536#10 _ _ _ _ rfl, buildX_layoutX _ 31#6 536#10 _ _ _ _⟩

theorem tlbsync (rt ra rb : RegIndex) (rc : Bool) : Statement (.tlbsync rt ra rb rc) :=
  ⟨_, mem_x (i := 62) (fieldPrimaryOpcode_layoutX 31#6 566#10 _ _ _ _) rfl, rfl,
    selects_layoutX 31#6 566#10 _ _ _ _ rfl, buildX_layoutX _ 31#6 566#10 _ _ _ _⟩

theorem lfsux (rt ra rb : RegIndex) (rc : Bool) : Statement (.lfsux rt ra rb rc) :=
  ⟨_, mem_x (i := 63) (fieldPrimaryOpcode_layoutX 31#6 567#10 _ _ _ _) rfl, rfl,
    selects_layoutX 31#6 567#10 _ _ _ _ rfl, buildX_layoutX _ 31#6 567#10 _ _ _ _⟩

theorem mfsr (rt ra rb : RegIndex) (rc : Bool) : Statement (.mfsr rt ra rb rc) :=
  ⟨_, mem_x (i := 64) (fieldPrimaryOpcode_layoutX 31#6 595#10 _ _ _ _) rfl, rfl,
    selects_layoutX 31#6 595#10 _ _ _ _ rfl, buildX_layoutX _ 31#6 595#10 _ _ _ _⟩

theorem lswi (rt ra rb : RegIndex) (rc : Bool) : Statement (.lswi rt ra rb rc) :=
  ⟨_, mem_x (i := 65) (fieldPrimaryOpcode_layoutX 31#6 597#10 _ _ _ _) rfl, rfl,
    selects_layoutX 31#6 597#10 _ _ _ _ rfl, buildX_layoutX _ 31#6 597#10 _ _ _ _⟩

theorem sync (rt ra rb : RegIndex) (rc : Bool) : Statement (.sync rt ra rb rc) :=
  ⟨_, mem_x (i := 66) (fieldPrimaryOpcode_layoutX 31#6 598#10 _ _ _ _) rfl, rfl,
    selects_layoutX 31#6 598#10 _ _ _ _ rfl, buildX_layoutX _ 31#6 598#10 _ _ _ _⟩

theorem lfdx (rt ra rb : RegIndex) (rc : Bool) : Statement (.lfdx rt ra rb rc) :=
  ⟨_, mem_x (i := 67) (fieldPrimaryOpcode_layoutX 31#6 599#10 _ _ _ _) rfl, rfl,
    selects_layoutX 31#6 599#10 _ _ _ _ rfl, buildX_layoutX _ 31#6 599#10 _ _ _ _⟩

theorem lfdux (rt ra rb : RegIndex) (rc : Bool) : Statement (.lfdux rt ra rb rc) :=
  ⟨_, mem_x (i := 68) (fieldPrimaryOpcode_layoutX 31#6 631#10 _ _ _ _) rfl, rfl,
    selects_layoutX 31#6 631#10 _ _ _ _ rfl, buildX_layoutX _ 31#6 631#10 _ _ _ _⟩

theorem mfsrin (rt ra rb : RegIndex) (rc : Bool) : Statement (.mfsrin rt ra rb rc) :=
  ⟨_, mem_x (i := 69) (fieldPrimaryOpcode_layoutX 31#6 659#10 _ _ _ _) rfl, rfl,
    selects_layoutX 31#6 659#10 _ _ _ _ rfl, buildX_layoutX _ 31#6 659#10 _ _ _ _⟩

theorem stswx (rt ra rb : RegIndex) (rc : Bool) : Statement (.stswx rt ra rb rc) :=
  ⟨_, mem_x (i := 70) (fieldPrimaryOpcode_layoutX 31#6 661#10 _ _ _ _) rfl, rfl,
    selects_layoutX 31#6 661#10 _ _ _ _ rfl, buildX_layoutX _ 31#6 661#10 _ _ _ _⟩

theorem stwbrx (rt ra rb : RegIndex) (rc : Bool) : Statement (.stwbrx rt ra rb rc) :=
  ⟨_, mem_x (i := 71) (fieldPrimaryOpcode_layoutX 31#6 662#10 _ _ _ _) rfl, rfl,
    selects_layoutX 31#6 662#10 _ _ _ _ rfl, buildX_layoutX _ 31#6 662#10 _ _ _ _⟩

theorem stfsx (rt ra rb : RegIndex) (rc : Bool) : Statement (.stfsx rt ra rb rc) :=
  ⟨_, mem_x (i := 72) (fieldPrimaryOpcode_layoutX 31#6 663#10 _ _ _ _) rfl, rfl,
    selects_layoutX 31#6 663#10 _ _ _ _ rfl, buildX_layoutX _ 31#6 663#10 _ _ _ _⟩

theorem stfsux (rt ra rb : RegIndex) (rc : Bool) : Statement (.stfsux rt ra rb rc) :=
  ⟨_, mem_x (i := 73) (fieldPrimaryOpcode_layoutX 31#6 695#10 _ _ _ _) rfl, rfl,
    selects_layoutX 31#6 695#10 _ _ _ _ rfl, buildX_layoutX _ 31#6 695#10 _ _ _ _⟩

theorem stswi (rt ra rb : RegIndex) (rc : Bool) : Statement (.stswi rt ra rb rc) :=
  ⟨_, mem_x (i := 74) (fieldPrimaryOpcode_layoutX 31#6 725#10 _ _ _ _) rfl, rfl,
    selects_layoutX 31#6 725#10 _ _ _ _ rfl, buildX_layoutX _ 31#6 725#10 _ _ _ _⟩

theorem stfdx (rt ra rb : RegIndex) (rc : Bool) : Statement (.stfdx rt ra rb rc) :=
  ⟨_, mem_x (i := 75) (fieldPrimaryOpcode_layoutX 31#6 727#10 _ _ _ _) rfl, rfl,
    selects_layoutX 31#6 727#10 _ _ _ _ rfl, buildX_layoutX _ 31#6 727#10 _ _ _ _⟩

theorem stfdux (rt ra rb : RegIndex) (rc : Bool) : Statement (.stfdux rt ra rb rc) :=
  ⟨_, mem_x (i := 76) (fieldPrimaryOpcode_layoutX 31#6 759#10 _ _ _ _) rfl, rfl,
    selects_layoutX 31#6 759#10 _ _ _ _ rfl, buildX_layoutX _ 31#6 759#10 _ _ _ _⟩

theorem lhbrx (rt ra rb : RegIndex) (rc : Bool) : Statement (.lhbrx rt ra rb rc) :=
  ⟨_, mem_x (i := 77) (fieldPrimaryOpcode_layoutX 31#6 790#10 _ _ _ _) rfl, rfl,
    selects_layoutX 31#6 790#10 _ _ _ _ rfl, buildX_layoutX _ 31#6 790#10 _ _ _ _⟩

theorem sraw (rt ra rb : RegIndex) (rc : Bool) : Statement (.sraw rt ra rb rc) :=
  ⟨_, mem_x (i := 78) (fieldPrimaryOpcode_layoutX 31#6 792#10 _ _ _ _) rfl, rfl,
    selects_layoutX 31#6 792#10 _ _ _ _ rfl, buildX_layoutX _ 31#6 792#10 _ _ _ _⟩

theorem srawi (rt ra rb : RegIndex) (rc : Bool) : Statement (.srawi rt ra rb rc) :=
  ⟨_, mem_x (i := 79) (fieldPrimaryOpcode_layoutX 31#6 824#10 _ _ _ _) rfl, rfl,
    selects_layoutX 31#6 824#10 _ _ _ _ rfl, buildX_layoutX _ 31#6 824#10 _ _ _ _⟩

theorem eieio (rt ra rb : RegIndex) (rc : Bool) : Statement (.eieio rt ra rb rc) :=
  ⟨_, mem_x (i := 80) (fieldPrimaryOpcode_layoutX 31#6 854#10 _ _ _ _) rfl, rfl,
    selects_layoutX 31#6 854#10 _ _ _ _ rfl, buildX_layoutX _ 31#6 854#10 _ _ _ _⟩

theorem sthbrx (rt ra rb : RegIndex) (rc : Bool) : Statement (.sthbrx rt ra rb rc) :=
  ⟨_, mem_x (i := 81) (fieldPrimaryOpcode_layoutX 31#6 918#10 _ _ _ _) rfl, rfl,
    selects_layoutX 31#6 918#10 _ _ _ _ rfl, buildX_layoutX _ 31#6 918#10 _ _ _ _⟩

theorem extsh (rt ra rb : RegIndex) (rc : Bool) : Statement (.extsh rt ra rb rc) :=
  ⟨_, mem_x (i := 82) (fieldPrimaryOpcode_layoutX 31#6 922#10 _ _ _ _) rfl, rfl,
    selects_layoutX 31#6 922#10 _ _ _ _ rfl, buildX_layoutX _ 31#6 922#10 _ _ _ _⟩

theorem extsb (rt ra rb : RegIndex) (rc : Bool) : Statement (.extsb rt ra rb rc) :=
  ⟨_, mem_x (i := 83) (fieldPrimaryOpcode_layoutX 31#6 954#10 _ _ _ _) rfl, rfl,
    selects_layoutX 31#6 954#10 _ _ _ _ rfl, buildX_layoutX _ 31#6 954#10 _ _ _ _⟩

theorem icbi (rt ra rb : RegIndex) (rc : Bool) : Statement (.icbi rt ra rb rc) :=
  ⟨_, mem_x (i := 84) (fieldPrimaryOpcode_layoutX 31#6 982#10 _ _ _ _) rfl, rfl,
    selects_layoutX 31#6 982#10 _ _ _ _ rfl, buildX_layoutX _ 31#6 982#10 _ _ _ _⟩

theorem stfiwx (rt ra rb : RegIndex) (rc : Bool) : Statement (.stfiwx rt ra rb rc) :=
  ⟨_, mem_x (i := 85) (fieldPrimaryOpcode_layoutX 31#6 983#10 _ _ _ _) rfl, rfl,
    selects_layoutX 31#6 983#10 _ _ _ _ rfl, buildX_layoutX _ 31#6 983#10 _ _ _ _⟩

theorem dcbz (rt ra rb : RegIndex) (rc : Bool) : Statement (.dcbz rt ra rb rc) :=
  ⟨_, mem_x (i := 86) (fieldPrimaryOpcode_layoutX 31#6 1014#10 _ _ _ _) rfl, rfl,
    selects_layoutX 31#6 1014#10 _ _ _ _ rfl, buildX_layoutX _ 31#6 1014#10 _ _ _ _⟩

theorem mfcr (rt : RegIndex) (spr : BitVec 10) (rc : Bool) : Statement (.mfcr rt spr rc) :=
  ⟨_, mem_xfx (i := 87) (fieldPrimaryOpcode_layoutXfx 31#6 19#10 _ _ _) rfl, rfl,
    selects_layoutXfx 31#6 19#10 _ _ _ rfl, buildXfx_layoutXfx _ 31#6 19#10 _ _ _⟩

theorem mtcrf (rt : RegIndex) (spr : BitVec 10) (rc : Bool) : Statement (.mtcrf rt spr rc) :=
  ⟨_, mem_xfx (i := 88) (fieldPrimaryOpcode_layoutXfx 31#6 144#10 _ _ _) rfl, rfl,
    selects_layoutXfx 31#6 144#10 _ _ _ rfl, buildXfx_layoutXfx _ 31#6 144#10 _ _ _⟩

theorem mfspr (rt : RegIndex) (spr : BitVec 10) (rc : Bool) : Statement (.mfspr rt spr rc) :=
  ⟨_, mem_xfx (i := 89) (fieldPrimaryOpcode_layoutXfx 31#6 339#10 _ _ _) rfl, rfl,
    selects_layoutXfx 31#6 339#10 _ _ _ rfl, buildXfx_layoutXfx _ 31#6 339#10 _ _ _⟩

theorem mftb (rt : RegIndex) (spr : BitVec 10) (rc : Bool) : Statement (.mftb rt spr rc) :=
  ⟨_, mem_xfx (i := 90) (fieldPrimaryOpcode_layoutXfx 31#6 371#10 _ _ _) rfl, rfl,
    selects_layoutXfx 31#6 371#10 _ _ _ rfl, buildXfx_layoutXfx _ 31#6 371#10 _ _ _⟩

theorem mtspr (rt : RegIndex) (spr : BitVec 10) (rc : Bool) : Statement (.mtspr rt spr rc) :=
  ⟨_, mem_xfx (i := 91) (fieldPrimaryOpcode_layoutXfx 31#6 467#10 _ _ _) rfl, rfl,
    selects_layoutXfx 31#6 467#10 _ _ _ rfl, buildXfx_layoutXfx _ 31#6 467#10 _ _ _⟩

theorem fdivs (frt fra frb frc : RegIndex) (rc : Bool) : Statement (.fdivs frt fra frb frc rc) :=
  ⟨_, mem_a (i := 0) (fieldPrimaryOpcode_layoutA 59#6 18#5 _ _ _ _ _) rfl, rfl,
    selects_layoutA 59#6 18#5 _ _ _ _ _ rfl, buildA_layoutA _ 59#6 18#5 _ _ _ _ _⟩

theorem fsubs (frt fra frb frc : RegIndex) (rc : Bool) : Statement (.fsubs frt fra frb frc rc) :=
  ⟨_, mem_a (i := 1) (fieldPrimaryOpcode_layoutA 59#6 20#5 _ _ _ _ _) rfl, rfl,
    selects_layoutA 59#6 20#5 _ _ _ _ _ rfl, buildA_layoutA _ 59#6 20#5 _ _ _ _ _⟩

theorem fadds (frt fra frb frc : RegIndex) (rc : Bool) : Statement (.fadds frt fra frb frc rc) :=
  ⟨_, mem_a (i := 2) (fieldPrimaryOpcode_layoutA 59#6 21#5 _ _ _ _ _) rfl, rfl,
    selects_layoutA 59#6 21#5 _ _ _ _ _ rfl, buildA_layoutA _ 59#6 21#5 _ _ _ _ _⟩

theorem fsqrts (frt fra frb frc : RegIndex) (rc : Bool) : Statement (.fsqrts frt fra frb frc rc) :=
  ⟨_, mem_a (i := 3) (fieldPrimaryOpcode_layoutA 59#6 22#5 _ _ _ _ _) rfl, rfl,
    selects_layoutA 59#6 22#5 _ _ _ _ _ rfl, buildA_layoutA _ 59#6 22#5 _ _ _ _ _⟩

theorem fres (frt fra frb frc : RegIndex) (rc : Bool) : Statement (.fres frt fra frb frc rc) :=
  ⟨_, mem_a (i := 4) (fieldPrimaryOpcode_layoutA 59#6 24#5 _ _ _ _ _) rfl, rfl,
    selects_layoutA 59#6 24#5 _ _ _ _ _ rfl, buildA_layoutA _ 59#6 24#5 _ _ _ _ _⟩

theorem fmuls (frt fra frb frc : RegIndex) (rc : Bool) : Statement (.fmuls frt fra frb frc rc) :=
  ⟨_, mem_a (i := 5) (fieldPrimaryOpcode_layoutA 59#6 25#5 _ _ _ _ _) rfl, rfl,
    selects_layoutA 59#6 25#5 _ _ _ _ _ rfl, buildA_layoutA _ 59#6 25#5 _ _ _ _ _⟩

theorem fmsubs (frt fra frb frc : RegIndex) (rc : Bool) : Statement (.fmsubs frt fra frb frc rc) :=
  ⟨_, mem_a (i := 6) (fieldPrimaryOpcode_layoutA 59#6 28#5 _ _ _ _ _) rfl, rfl,
    selects_layoutA 59#6 28#5 _ _ _ _ _ rfl, buildA_layoutA _ 59#6 28#5 _ _ _ _ _⟩

theorem fmadds (frt fra frb frc : RegIndex) (rc : Bool) : Statement (.fmadds frt fra frb frc rc) :=
  ⟨_, mem_a (i := 7) (fieldPrimaryOpcode_layoutA 59#6 29#5 _ _ _ _ _) rfl, rfl,
    selects_layoutA 59#6 29#5 _ _ _ _ _ rfl, buildA_layoutA _ 59#6 29#5 _ _ _ _ _⟩

theorem fnmsubs (frt fra frb frc : RegIndex) (rc : Bool) : Statement (.fnmsubs frt fra frb frc rc) :=
  ⟨_, mem_a (i := 8) (fieldPrimaryOpcode_layoutA 59#6 30#5 _ _ _ _ _) rfl, rfl,
    selects_layoutA 59#6 30#5 _ _ _ _ _ rfl, buildA_layoutA _ 59#6 30#5 _ _ _ _ _⟩

theorem fnmadds (frt fra frb frc : RegIndex) (rc : Bool) : Statement (.fnmadds frt fra frb frc rc) :=
  ⟨_, mem_a (i := 9) (fieldPrimaryOpcode_layoutA 59#6 31#5 _ _ _ _ _) rfl, rfl,
    selects_layoutA 59#6 31#5 _ _ _ _ _ rfl, buildA_layoutA _ 59#6 31#5 _ _ _ _ _⟩

theorem fdiv (frt fra frb frc : RegIndex) (rc : Bool) : Statement (.fdiv frt fra frb frc rc) :=
  ⟨_, mem_a (i := 10) (fieldPrimaryOpcode_layoutA 63#6 18#5 _ _ _ _ _) rfl, rfl,
    selects_layoutA 63#6 18#5 _ _ _ _ _ rfl, buildA_layoutA _ 63#6 18#5 _ _ _ _ _⟩

theorem fsub (frt fra frb frc : RegIndex) (rc : Bool) : Statement (.fsub frt fra frb frc rc) :=
  ⟨_, mem_a (i := 11) (fieldPrimaryOpcode_layoutA 63#6 20#5 _ _ _ _ _) rfl, rfl,
    selects_layoutA 63#6 20#5 _ _ _ _ _ rfl, buildA_layoutA _ 63#6 20#5 _ _ _ _ _⟩

theorem fadd (frt fra frb frc : RegIndex) (rc : Bool) : Statement (.fadd frt fra frb frc rc) :=
  ⟨_, mem_a (i := 12) (fieldPrimaryOpcode_layoutA 63#6 21#5 _ _ _ _ _) rfl, rfl,
    selects_layoutA 63#6 21#5 _ _ _ _ _ rfl, buildA_layoutA _ 63#6 21#5 _ _ _ _ _⟩

theorem fsqrt (frt fra frb frc : RegIndex) (rc : Bool) : Statement (.fsqrt frt fra frb frc rc) :=
  ⟨_, mem_a (i := 13) (fieldPrimaryOpcode_layoutA 63#6 22#5 _ _ _ _ _) rfl, rfl,
    selects_layoutA 63#6 22#5 _ _ _ _ _ rfl, buildA_layoutA _ 63#6 22#5 _ _ _ _ _⟩

theorem fsel (frt fra frb frc : RegIndex) (rc : Bool) : Statement (.fsel frt fra frb frc rc) :=
  ⟨_, mem_a (i := 14) (fieldPrimaryOpcode_layoutA 63#6 23#5 _ _ _ _ _) rfl, rfl,
    selects_layoutA 63#6 23#5 _ _ _ _ _ rfl, buildA_layoutA _ 63#6 23#5 _ _ _ _ _⟩

theorem fmul (frt fra frb frc : RegIndex) (rc : Bool) : Statement (.fmul frt fra frb frc rc) :=
  ⟨_, mem_a (i := 15) (fieldPrimaryOpcode_layoutA 63#6 25#5 _ _ _ _ _) rfl, rfl,
    selects_layoutA 63#6 25#5 _ _ _ _ _ rfl, buildA_layoutA _ 63#6 25#5 _ _ _ _ _⟩

theorem frsqrte (frt fra frb frc : RegIndex) (rc : Bool) : Statement (.frsqrte frt fra frb frc rc) :=
  ⟨_, mem_a (i := 16) (fieldPrimaryOpcode_layoutA 63#6 26#5 _ _ _ _ _) rfl, rfl,
    selects_layoutA 63#6 26#5 _ _ _ _ _ rfl, buildA_layoutA _ 63#6 26#5 _ _ _ _ _⟩

theorem fmsub (frt fra frb frc : RegIndex) (rc : Bool) : Statement (.fmsub frt fra frb frc rc) :=
  ⟨_, mem_a (i := 17) (fieldPrimaryOpcode_layoutA 63#6 28#5 _ _ _ _ _) rfl, rfl,
    selects_layoutA 63#6 28#5 _ _ _ _ _ rfl, buildA_layoutA _ 63#6 28#5 _ _ _ _ _⟩

theorem fmadd (frt fra frb frc : RegIndex) (rc : Bool) : Statement (.fmadd frt fra frb frc rc) :=
  ⟨_, mem_a (i := 18) (fieldPrimaryOpcode_layoutA 63#6 29#5 _ _ _ _ _) rfl, rfl,
    selects_layoutA 63#6 29#5 _ _ _ _ _ rfl, buildA_layoutA _ 63#6 29#5 _ _ _ _ _⟩

theorem fnmsub (frt fra frb frc : RegIndex) (rc : Bool) : Statement (.fnmsub frt fra frb frc rc) :=
  ⟨_, mem_a (i := 19) (fieldPrimaryOpcode_layoutA 63#6 30#5 _ _ _ _ _) rfl, rfl,
    selects_layoutA 63#6 30#5 _ _ _ _ _ rfl, buildA_layoutA _ 63#6 30#5 _ _ _ _ _⟩

theorem fnmadd (frt fra frb frc : RegIndex) (rc : Bool) : Statement (.fnmadd frt fra frb frc rc) :=
  ⟨_, mem_a (i := 20) (fieldPrimaryOpcode_layoutA 63#6 31#5 _ _ _ _ _) rfl, rfl,
    selects_layoutA 63#6 31#5 _ _ _ _ _ rfl, buildA_layoutA _ 63#6 31#5 _ _ _ _ _⟩

end Sys2Proof.Laws.OwnRow
end

