-- ==== Sys2Proof/Laws/Rows.lean ====
section
/-! SUPPORT. Of every row of `DefaultTables`: a word its entry selects (for XL, X and XFX: among the words of their
primary opcode) is the encoding of the instruction the row reads from it. -/

namespace Sys2Proof

theorem encode_build_primaryRows1 : ∀ r ∈ primaryRows1, ∀ raw,
    r.entry.selects raw = true → encode (r.build raw) = raw := by
  simp only [primaryRows1, List.forall_mem_cons, List.not_mem_nil, false_implies, implies_true, and_true]
  exact ⟨fun raw h => layoutD_of_selects 2#6 rfl h,
    fun raw h => layoutD_of_selects 3#6 rfl h,
    fun raw h => layoutD_of_selects 7#6 rfl h,
    fun raw h => layoutD_of_selects 8#6 rfl h,
    fun raw h => layoutD_of_selects 10#6 rfl h,
    fun raw h => layoutD_of_selects 11#6 rfl h,
    fun raw h => layoutD_of_selects 12#6 rfl h,
    fun raw h => layoutD_of_selects 13#6 rfl h,
    fun raw h => layoutD_of_selects 14#6 rfl h,
    fun raw h => layoutD_of_selects 15#6 rfl h,
    fun raw h => layoutB_of_selects 16#6 rfl h,
    fun raw h => layoutSc_of_selects 17#6 rfl h,
    fun raw h => layoutI_of_selects 18#6 rfl h,
    fun raw h => layoutM_of_selects 20#6 rfl h,
    fun raw h => layoutM_of_selects 21#6 rfl h⟩

theorem encode_build_primaryRows2 : ∀ r ∈ primaryRows2, ∀ raw,
    r.entry.selects raw = true → encode (r.build raw) = raw := by
  simp only [primaryRows2, List.forall_mem_cons, List.not_mem_nil, false_implies, implies_true, and_true]
  exact ⟨fun raw h => layoutM_of_selects 23#6 rfl h,
    fun raw h => layoutD_of_selects 24#6 rfl h,
    fun raw h => layoutD_of_selects 25#6 rfl h,
    fun raw h => layoutD_of_selects 26#6 rfl h,
    fun raw h => layoutD_of_selects 27#6 rfl h,
    fun raw h => layoutD_of_selects 28#6 rfl h,
    fun raw h => layoutD_of_selects 29#6 rfl h,
    fun raw h => layoutMd_of_selects 30#6 0#3 rfl h,
    fun raw h => layoutMd_of_selects 30#6 1#3 rfl h,
    fun raw h => layoutMd_of_selects 30#6 2#3 rfl h,
    fun raw h => layoutMd_of_selects 30#6 3#3 rfl h,
    fun raw h => layoutMds_of_selects 30#6 8#4 rfl h,
    fun raw h => layoutMds_of_selects 30#6 9#4 rfl h,
    fun raw h => layoutD_of_selects 32#6 rfl h,
    fun raw h => layoutD_of_selects 33#6 rfl h⟩

theorem encode_build_primaryRows3 : ∀ r ∈ primaryRows3, ∀ raw,
    r.entry.selects raw = true → encode (r.build raw) = raw := by
  simp only [primaryRows3, List.forall_mem_cons, List.not_mem_nil, false_implies, implies_true, and_true]
  exact ⟨fun raw h => layoutD_of_selects 34#6 rfl h,
    fun raw h => layoutD_of_selects 35#6 rfl h,
    fun raw h => layoutD_of_selects 36#6 rfl h,
    fun raw h => layoutD_of_selects 37#6 rfl h,
    fun raw h => layoutD_of_selects 38#6 rfl h,
    fun raw h => layoutD_of_selects 39#6 rfl h,
    fun raw h => layoutD_of_selects 40#6 rfl h,
    fun raw h => layoutD_of_selects 41#6 rfl h,
    fun raw h => layoutD_of_selects 42#6 rfl h,
    fun raw h => layoutD_of_selects 43#6 rfl h,
    fun raw h => layoutD_of_selects 44#6 rfl h,
    fun raw h => layoutD_of_selects 45#6 rfl h,
    fun raw h => layoutD_of_selects 46#6 rfl h,
    fun raw h => layoutD_of_selects 47#6 rfl h,
    fun raw h => layoutD_of_selects 48#6 rfl h⟩

theorem encode_build_primaryRows4 : ∀ r ∈ primaryRows4, ∀ raw,
    r.entry.selects raw = true → encode (r.build raw) = raw := by
  simp only [primaryRows4, List.forall_mem_cons, List.not_mem_nil, false_implies, implies_true, and_true]
  exact ⟨fun raw h => layoutD_of_selects 49#6 rfl h,
    fun raw h => layoutD_of_selects 50#6 rfl h,
    fun raw h => layoutD_of_selects 51#6 rfl h,
    fun raw h => layoutD_of_selects 52#6 rfl h,
    fun raw h => layoutD_of_selects 53#6 rfl h,
    fun raw h => layoutD_of_selects 54#6 rfl h,
    fun raw h => layoutD_of_selects 55#6 rfl h,
    fun raw h => layoutDs_of_selects 58#6 0#2 rfl h,
    fun raw h => layoutDs_of_selects 58#6 1#2 rfl h,
    fun raw h => layoutDs_of_selects 58#6 2#2 rfl h,
    fun raw h => layoutDs_of_selects 62#6 0#2 rfl h,
    fun raw h => layoutDs_of_selects 62#6 1#2 rfl h⟩

theorem encode_build_xlRows1 : ∀ r ∈ xlRows1, ∀ raw,
    fieldPrimaryOpcode raw = 19 → r.entry.selects raw = true → encode (r.build raw) = raw := by
  simp only [xlRows1, List.forall_mem_cons, List.not_mem_nil, false_implies, implies_true, and_true]
  exact ⟨fun raw hop h => layoutXl_of_selects 19#6 0#10 hop rfl h,
    fun raw hop h => layoutXl_of_selects 19#6 16#10 hop rfl h,
    fun raw hop h => layoutXl_of_selects 19#6 33#10 hop rfl h,
    fun raw hop h => layoutXl_of_selects 19#6 50#10 hop rfl h,
    fun raw hop h => layoutXl_of_selects 19#6 129#10 hop rfl h,
    fun raw hop h => layoutXl_of_selects 19#6 150#10 hop rfl h,
    fun raw hop h => layoutXl_of_selects 19#6 193#10 hop rfl h,
    fun raw hop h => layoutXl_of_selects 19#6 225#10 hop rfl h,
    fun raw hop h => layoutXl_of_selects 19#6 257#10 hop rfl h,
    fun raw hop h => layoutXl_of_selects 19#6 289#10 hop rfl h,
    fun raw hop h => layoutXl_of_selects 19#6 417#10 hop rfl h,
    fun raw hop h => layoutXl_of_selects 19#6 449#10 hop rfl h,
    fun raw hop h => layoutXl_of_selects 19#6 528#10 hop rfl h⟩

theorem encode_build_xRows1 : ∀ r ∈ xRows1, ∀ raw,
    fieldPrimaryOpcode raw = 31 → r.entry.selects raw = true → encode (r.build raw) = raw := by
  simp only [xRows1, List.forall_mem_cons, List.not_mem_nil, false_implies, implies_true, and_true]
  exact ⟨fun raw hop h => layoutX_of_selects 31#6 0#10 hop rfl h,
    fun raw hop h => layoutX_of_selects 31#6 4#10 hop rfl h,
    fun raw hop h => layoutXo_of_selects 31#6 8#9 hop rfl h,
    fun raw hop h => layoutXo_of_selects 31#6 10#9 hop rfl h,
    fun raw hop h => layoutX_of_selects 31#6 11#10 hop rfl h,
    fun raw hop h => layoutX_of_selects 31#6 20#10 hop rfl h,
    fun raw hop h => layoutX_of_selects 31#6 23#10 hop rfl h,
    fun raw hop h => layoutX_of_selects 31#6 24#10 hop rfl h,
    fun raw hop h => layoutX_of_selects 31#6 26#10 hop rfl h,
    fun raw hop h => layoutX_of_selects 31#6 28#10 hop rfl h,
    fun raw hop h => layoutX_of_selects 31#6 32#10 hop rfl h,
    fun raw hop h => layoutXo_of_selects 31#6 40#9 hop rfl h,
    fun raw hop h => layoutX_of_selects 31#6 54#10 hop rfl h,
    fun raw hop h => layoutX_of_selects 31#6 55#10 hop rfl h,
    fun raw hop h => layoutX_of_selects 31#6 60#10 hop rfl h⟩

theorem encode_build_xRows2 : ∀ r ∈ xRows2, ∀ raw,
    fieldPrimaryOpcode raw = 31 → r.entry.selects raw = true → encode (r.build raw) = raw := by
  simp only [xRows2, List.forall_mem_cons, List.not_mem_nil, false_implies, implies_true, and_true]
  exact ⟨fun raw hop h => layoutX_of_selects 31#6 75#10 hop rfl h,
    fun raw hop h => layoutX_of_selects 31#6 83#10 hop rfl h,
    fun raw hop h => layoutX_of_selects 31#6 86#10 hop rfl h,
    fun raw hop h => layoutX_of_selects 31#6 87#10 hop rfl h,
    fun raw hop h => layoutXo_of_selects 31#6 104#9 hop rfl h,
    fun raw hop h => layoutX_of_selects 31#6 119#10 hop rfl h,
    fun raw hop h => layoutX_of_selects 31#6 124#10 hop rfl h,
    fun raw hop h => layoutXo_of_selects 31#6 136#9 hop rfl h,
    fun raw hop h => layoutXo_of_selects 31#6 138#9 hop rfl h,
    fun raw hop h => layoutX_of_selects 31#6 146#10 hop rfl h,
    fun raw hop h => layoutX_of_selects 31#6 150#10 hop rfl h,
    fun raw hop h => layoutX_of_selects 31#6 151#10 hop rfl h,
    fun raw hop h => layoutX_of_selects 31#6 183#10 hop rfl h,
    fun raw hop h => layoutXo_of_selects 31#6 200#9 hop rfl h,
    fun raw hop h => layoutXo_of_selects 31#6 202#9 hop rfl h⟩

theorem encode_build_xRows3 : ∀ r ∈ xRows3, ∀ raw,
    fieldPrimaryOpcode raw = 31 → r.entry.selects raw = true → encode (r.build raw) = raw := by
  simp only [xRows3, List.forall_mem_cons, List.not_mem_nil, false_implies, implies_true, and_true]
  exact ⟨fun raw hop h => layoutX_of_selects 31#6 210#10 hop rfl h,
    fun raw hop h => layoutX_of_selects 31#6 215#10 hop rfl h,
    fun raw hop h => layoutXo_of_selects 31#6 232#9 hop rfl h,
    fun raw hop h => layoutXo_of_selects 31#6 234#9 hop rfl h,
    fun raw hop h => layoutXo_of_selects 31#6 235#9 hop rfl h,
    fun raw hop h => layoutX_of_selects 31#6 242#10 hop rfl h,
    fun raw hop h => layoutX_of_selects 31#6 246#10 hop rfl h,
    fun raw hop h => layoutX_of_selects 31#6 247#10 hop rfl h,
    fun raw hop h => layoutXo_of_selects 31#6 266#9 hop rfl h,
    fun raw hop h => layoutX_of_selects 31#6 278#10 hop rfl h,
    fun raw hop h => layoutX_of_selects 31#6 279#10 hop rfl h,
    fun raw hop h => layoutX_of_selects 31#6 284#10 hop rfl h,
    fun raw hop h => layoutX_of_selects 31#6 306#10 hop rfl h,
    fun raw hop h => layoutX_of_selects 31#6 310#10 hop rfl h,
    fun raw hop h => layoutX_of_selects 31#6 311#10 hop rfl h⟩

theorem encode_build_xRows4 : ∀ r ∈ xRows4, ∀ raw,
    fieldPrimaryOpcode raw = 31 → r.entry.selects raw = true → encode (r.build raw) = raw := by
  simp only [xRows4, List.forall_mem_cons, List.not_mem_nil, false_implies, implies_true, and_true]
  exact ⟨fun raw hop h => layoutX_of_selects 31#6 316#10 hop rfl h,
    fun raw hop h => layoutX_of_selects 31#6 343#10 hop rfl h,
    fun raw hop h => layoutX_of_selects 31#6 375#10 hop rfl h,
    fun raw hop h => layoutX_of_selects 31#6 407#10 hop rfl h,
    fun raw hop h => layoutX_of_selects 31#6 412#10 hop rfl h,
    fun raw hop h => layoutX_of_selects 31#6 438#10 hop rfl h,
    fun raw hop h => layoutX_of_selects 31#6 439#10 hop rfl h,
    fun raw hop h => layoutX_of_selects 31#6 444#10 hop rfl h,
    fun raw hop h => layoutXo_of_selects 31#6 459#9 hop rfl h,
    fun raw hop h => layoutX_of_selects 31#6 470#10 hop rfl h,
    fun raw hop h => layoutX_of_selects 31#6 476#10 hop rfl h,
    fun raw hop h => layoutXo_of_selects 31#6 491#9 hop rfl h,
    fun raw hop h => layoutX_of_selects 31#6 512#10 hop rfl h,
    fun raw hop h => layoutX_of_selects 31#6 533#10 hop rfl h,
    fun raw hop h => layoutX_of_selects 31#6 534#10 hop rfl h⟩

theorem encode_build_xRows5 : ∀ r ∈ xRows5, ∀ raw,
    fieldPrimaryOpcode raw = 31 → r.entry.selects raw = true → encode (r.build raw) = raw := by
  simp only [xRows5, List.forall_mem_cons, List.not_mem_nil, false_implies, implies_true, and_true]
  exact ⟨fun raw hop h => layoutX_of_selects 31#6 535#10 hop rfl h,
    fun raw hop h => layoutX_of_selects 31#6 536#10 hop rfl h,
    fun raw hop h => layoutX_of_selects 31#6 566#10 hop rfl h,
    fun raw hop h => layoutX_of_selects 31#6 567#10 hop rfl h,
    fun raw hop h => layoutX_of_selects 31#6 595#10 hop rfl h,
    fun raw hop h => layoutX_of_selects 31#6 597#10 hop rfl h,
    fun raw hop h => layoutX_of_selects 31#6 598#10 hop rfl h,
    fun raw hop h => layoutX_of_selects 31#6 599#10 hop rfl h,
    fun raw hop h => layoutX_of_selects 31#6 631#10 hop rfl h,
    fun raw hop h => layoutX_of_selects 31#6 659#10 hop rfl h,
    fun raw hop h => layoutX_of_selects 31#6 661#10 hop rfl h,
    fun raw hop h => layoutX_of_selects 31#6 662#10 hop rfl h,
    fun raw hop h => layoutX_of_selects 31#6 663#10 hop rfl h,
    fun raw hop h => layoutX_of_selects 31#6 695#10 hop rfl h,
    fun raw hop h => layoutX_of_selects 31#6 725#10 hop rfl h⟩

theorem encode_build_xRows6 : ∀ r ∈ xRows6, ∀ raw,
    fieldPrimaryOpcode raw = 31 → r.entry.selects raw = true → encode (r.build raw) = raw := by
  simp only [xRows6, List.forall_mem_cons, List.not_mem_nil, false_implies, implies_true, and_true]
  exact ⟨fun raw hop h => layoutX_of_selects 31#6 727#10 hop rfl h,
    fun raw hop h => layoutX_of_selects 31#6 759#10 hop rfl h,
    fun raw hop h => layoutX_of_selects 31#6 790#10 hop rfl h,
    fun raw hop h => layoutX_of_selects 31#6 792#10 hop rfl h,
    fun raw hop h => layoutX_of_selects 31#6 824#10 hop rfl h,
    fun raw hop h => layoutX_of_selects 31#6 854#10 hop rfl h,
    fun raw hop h => layoutX_of_selects 31#6 918#10 hop rfl h,
    fun raw hop h => layoutX_of_selects 31#6 922#10 hop rfl h,
    fun raw hop h => layoutX_of_selects 31#6 954#10 hop rfl h,
    fun raw hop h => layoutX_of_selects 31#6 982#10 hop rfl h,
    fun raw hop h => layoutX_of_selects 31#6 983#10 hop rfl h,
    fun raw hop h => layoutX_of_selects 31#6 1014#10 hop rfl h⟩

theorem encode_build_xfxRows1 : ∀ r ∈ xfxRows1, ∀ raw,
    fieldPrimaryOpcode raw = 31 → r.entry.selects raw = true → encode (r.build raw) = raw := by
  simp only [xfxRows1, List.forall_mem_cons, List.not_mem_nil, false_implies, implies_true, and_true]
  exact ⟨fun raw hop h => layoutXfx_of_selects 31#6 19#10 hop rfl h,
    fun raw hop h => layoutXfx_of_selects 31#6 144#10 hop rfl h,
    fun raw hop h => layoutXfx_of_selects 31#6 339#10 hop rfl h,
    fun raw hop h => layoutXfx_of_selects 31#6 371#10 hop rfl h,
    fun raw hop h => layoutXfx_of_selects 31#6 467#10 hop rfl h⟩

theorem encode_build_aRows1 : ∀ r ∈ aRows1, ∀ raw,
    r.entry.selects raw = true → encode (r.build raw) = raw := by
  simp only [aRows1, List.forall_mem_cons, List.not_mem_nil, false_implies, implies_true, and_true]
  exact ⟨fun raw h => layoutA_of_selects 59#6 18#5 rfl h,
    fun raw h => layoutA_of_selects 59#6 20#5 rfl h,
    fun raw h => layoutA_of_selects 59#6 21#5 rfl h,
    fun raw h => layoutA_of_selects 59#6 22#5 rfl h,
    fun raw h => layoutA_of_selects 59#6 24#5 rfl h,
    fun raw h => layoutA_of_selects 59#6 25#5 rfl h,
    fun raw h => layoutA_of_selects 59#6 28#5 rfl h,
    fun raw h => layoutA_of_selects 59#6 29#5 rfl h,
    fun raw h => layoutA_of_selects 59#6 30#5 rfl h,
    fun raw h => layoutA_of_selects 59#6 31#5 rfl h,
    fun raw h => layoutA_of_selects 63#6 18#5 rfl h,
    fun raw h => layoutA_of_selects 63#6 20#5 rfl h,
    fun raw h => layoutA_of_selects 63#6 21#5 rfl h,
    fun raw h => layoutA_of_selects 63#6 22#5 rfl h,
    fun raw h => layoutA_of_selects 63#6 23#5 rfl h⟩

theorem encode_build_aRows2 : ∀ r ∈ aRows2, ∀ raw,
    r.entry.selects raw = true → encode (r.build raw) = raw := by
  simp only [aRows2, List.forall_mem_cons, List.not_mem_nil, false_implies, implies_true, and_true]
  exact ⟨fun raw h => layoutA_of_selects 63#6 25#5 rfl h,
    fun raw h => layoutA_of_selects 63#6 26#5 rfl h,
    fun raw h => layoutA_of_selects 63#6 28#5 rfl h,
    fun raw h => layoutA_of_selects 63#6 29#5 rfl h,
    fun raw h => layoutA_of_selects 63#6 30#5 rfl h,
    fun raw h => layoutA_of_selects 63#6 31#5 rfl h⟩

end Sys2Proof
end

