-- ==== Sys2Proof/Tests/Slice0.lean ====
section
/-! SUPPORT. The model's own tests. Expected values come from the worked examples of spec files 41 to 47 and 70 and
from the vectors of 95_test_vectors.md; each section says which. A theorem named `witness_…` shows a concrete input
that meets the hypotheses of the statement it is named after. -/

-- One theorem after the other: elaborating them all at once asks for too many threads.
set_option Elab.async false

namespace Sys2Proof.Machine

/-! ## Helpers -/

/-- The memory system after `init(0x20000)`, the start of 95_test_vectors.md 2.5 and 2.6. -/
def started : MemorySystem 64 := MemorySystem.afterInit 64 0x20000

/-- The same with these bytes in RAM. -/
def holding (ram : Memory) : MemorySystem 64 := { started with ram := ram }

/-- The bytes 01 02 03 04 from 0x100 on. -/
def fourBytes : MemorySystem 64 := holding [(0x100, 1), (0x101, 2), (0x102, 3), (0x103, 4)]

/-- The last word of RAM, 0x11223344 at 0x1FFFC. -/
def lastWord : MemorySystem 64 := holding [(0x1FFFC, 0x11), (0x1FFFD, 0x22), (0x1FFFE, 0x33), (0x1FFFF, 0x44)]

/-- What an operation returns, if it has a meaning. -/
def resultOf (op : MemOp 64) (m : MemorySystem 64) : Option (MemResult 64) := (m.perform op).toOption.map (·.1)

/-- A view of the memory system an operation leaves. -/
def after {α : Type} (op : MemOp 64) (m : MemorySystem 64) (view : MemorySystem 64 → α) : Option α :=
  (m.perform op).toOption.map fun p => view p.2

/-- The counters, hits first. -/
def counters (m : MemorySystem 64) : Nat × Nat := (m.tlbHits, m.tlbMisses)

/-- The answers given after one step on a word handed over as the first instruction after reset. -/
def answersTo (w : Nat) : Option (List Response) :=
  match step (State.reset.withFetchWord 32 w) with
  | .next s => some s.responses
  | .fault _ => none
  | .refused _ => none

/-- Tables with one entry of format XFL, which the default tables do not have, and two that overlap (P5). -/
def otherTables : Tables :=
  { primary := [⟨0xFC1F0000#32, 0x38000000#32, .d, "li"⟩, ⟨0xFC000000#32, 0x38000000#32, .d, "addi"⟩,
      ⟨0xFC000000#32, 0x7C000000#32, .x, "op31"⟩, ⟨0xFC00003F#32, 0x04000005#32, .xfl, "xflOp"⟩]
    xl := []
    x := [⟨0x000007FE#32, 0x00000214#32, .x, "add"⟩]
    xfx := []
    a := [] }

/-! ## Decoding: one written-out word per constructor

Each word is written bit by bit from the pictures R102 to R111 and the entry's fixed bits (maps R123 to R127), with
the operands of the entry's own worked example in files 41 to 45, whose word it is. -/

theorem test_decode_primary_0 : ∀ p ∈
    [(0b000010_00011_00100_1111111111110000#32, Instr.tdi 3 4 0xFFF0),
      (0b000011_00011_00100_1111111111110000#32, Instr.twi 3 4 0xFFF0),
      (0b000111_00011_00100_1111111111110000#32, Instr.mulli 3 4 0xFFF0),
      (0b001000_00011_00100_1111111111110000#32, Instr.subfic 3 4 0xFFF0),
      (0b001010_00011_00100_1111111111110000#32, Instr.cmpli 3 4 0xFFF0),
      (0b001011_00011_00100_1111111111110000#32, Instr.cmpi 3 4 0xFFF0),
      (0b001100_00011_00100_1111111111110000#32, Instr.addic 3 4 0xFFF0),
      (0b001101_00011_00100_1111111111110000#32, Instr.addicDot 3 4 0xFFF0),
      (0b001110_00011_00100_1111111111110000#32, Instr.addi 3 4 0xFFF0),
      (0b001111_00011_00100_1111111111110000#32, Instr.addis 3 4 0xFFF0),
      (0b010000_01100_00010_11111111111110_0_1#32, Instr.bc 12 2 0x3FFE false true),
      (0b010001_00000000000000000000000010#32, Instr.sc 2),
      (0b010010_000000000000000001000000_0_1#32, Instr.b 0x40 false true),
      (0b010100_00011_00100_00101_00110_00111_1#32, Instr.rlwimi 3 4 5 6 7 true),
      (0b010101_00011_00100_00101_00110_00111_1#32, Instr.rlwinm 3 4 5 6 7 true)],
    decodeWord p.1 = some p.2 := by decide +kernel

theorem test_decode_primary_1 : ∀ p ∈
    [(0b010111_00011_00100_00101_00110_00111_1#32, Instr.rlwnm 3 4 5 6 7 true),
      (0b011000_00011_00100_1111111111110000#32, Instr.ori 3 4 0xFFF0),
      (0b011001_00011_00100_1111111111110000#32, Instr.oris 3 4 0xFFF0),
      (0b011010_00011_00100_1111111111110000#32, Instr.xori 3 4 0xFFF0),
      (0b011011_00011_00100_1111111111110000#32, Instr.xoris 3 4 0xFFF0),
      (0b011100_00011_00100_1111111111110000#32, Instr.andiDot 3 4 0xFFF0),
      (0b011101_00011_00100_1111111111110000#32, Instr.andisDot 3 4 0xFFF0),
      (0b011110_00011_00100_00101_000110_000_00#32, Instr.rldicl 3 4 5 6 0),
      (0b011110_00011_00100_00101_000110_001_00#32, Instr.rldicr 3 4 5 6 0),
      (0b011110_00011_00100_00101_000110_010_00#32, Instr.rldic 3 4 5 6 0),
      (0b011110_00011_00100_00101_000110_011_00#32, Instr.rldimi 3 4 5 6 0),
      (0b011110_00011_00100_00101_000110_1000_0#32, Instr.rldcl 3 4 5 6 false),
      (0b011110_00011_00100_00101_000110_1001_0#32, Instr.rldcr 3 4 5 6 false),
      (0b100000_00011_00100_1111111111110000#32, Instr.lwz 3 4 0xFFF0),
      (0b100001_00011_00100_1111111111110000#32, Instr.lwzu 3 4 0xFFF0)],
    decodeWord p.1 = some p.2 := by decide +kernel

theorem test_decode_primary_2 : ∀ p ∈
    [(0b100010_00011_00100_1111111111110000#32, Instr.lbz 3 4 0xFFF0),
      (0b100011_00011_00100_1111111111110000#32, Instr.lbzu 3 4 0xFFF0),
      (0b100100_00011_00100_1111111111110000#32, Instr.stw 3 4 0xFFF0),
      (0b100101_00011_00100_1111111111110000#32, Instr.stwu 3 4 0xFFF0),
      (0b100110_00011_00100_1111111111110000#32, Instr.stb 3 4 0xFFF0),
      (0b100111_00011_00100_1111111111110000#32, Instr.stbu 3 4 0xFFF0),
      (0b101000_00011_00100_1111111111110000#32, Instr.lhz 3 4 0xFFF0),
      (0b101001_00011_00100_1111111111110000#32, Instr.lhzu 3 4 0xFFF0),
      (0b101010_00011_00100_1111111111110000#32, Instr.lha 3 4 0xFFF0),
      (0b101011_00011_00100_1111111111110000#32, Instr.lhau 3 4 0xFFF0),
      (0b101100_00011_00100_1111111111110000#32, Instr.sth 3 4 0xFFF0),
      (0b101101_00011_00100_1111111111110000#32, Instr.sthu 3 4 0xFFF0),
      (0b101110_00011_00100_1111111111110000#32, Instr.lmw 3 4 0xFFF0),
      (0b101111_00011_00100_1111111111110000#32, Instr.stmw 3 4 0xFFF0),
      (0b110000_00011_00100_1111111111110000#32, Instr.lfs 3 4 0xFFF0)],
    decodeWord p.1 = some p.2 := by decide +kernel

theorem test_decode_primary_3 : ∀ p ∈
    [(0b110001_00011_00100_1111111111110000#32, Instr.lfsu 3 4 0xFFF0),
      (0b110010_00011_00100_1111111111110000#32, Instr.lfd 3 4 0xFFF0),
      (0b110011_00011_00100_1111111111110000#32, Instr.lfdu 3 4 0xFFF0),
      (0b110100_00011_00100_1111111111110000#32, Instr.stfs 3 4 0xFFF0),
      (0b110101_00011_00100_1111111111110000#32, Instr.stfsu 3 4 0xFFF0),
      (0b110110_00011_00100_1111111111110000#32, Instr.stfd 3 4 0xFFF0),
      (0b110111_00011_00100_1111111111110000#32, Instr.stfdu 3 4 0xFFF0),
      (0b111010_00011_00100_11111111111110_00#32, Instr.ld 3 4 0x3FFE),
      (0b111010_00011_00100_11111111111110_01#32, Instr.ldu 3 4 0x3FFE),
      (0b111010_00011_00100_11111111111110_10#32, Instr.lwa 3 4 0x3FFE),
      (0b111110_00011_00100_11111111111110_00#32, Instr.std 3 4 0x3FFE),
      (0b111110_00011_00100_11111111111110_01#32, Instr.stdu 3 4 0x3FFE)],
    decodeWord p.1 = some p.2 := by decide +kernel

theorem test_decode_xl_0 : ∀ p ∈
    [(0b010011_00001_00010_00011_0000000000_0#32, Instr.mcrf 1 2 3 false),
      (0b010011_10100_00000_00000_0000010000_0#32, Instr.bclr 20 0 0 false),
      (0b010011_00001_00010_00011_0000100001_0#32, Instr.crnor 1 2 3 false),
      (0b010011_00001_00010_00011_0000110010_0#32, Instr.rfi 1 2 3 false),
      (0b010011_00001_00010_00011_0010000001_0#32, Instr.crandc 1 2 3 false),
      (0b010011_00001_00010_00011_0010010110_0#32, Instr.isync 1 2 3 false),
      (0b010011_00001_00010_00011_0011000001_0#32, Instr.crxor 1 2 3 false),
      (0b010011_00001_00010_00011_0011100001_0#32, Instr.crnand 1 2 3 false),
      (0b010011_00001_00010_00011_0100000001_0#32, Instr.crand 1 2 3 false),
      (0b010011_00001_00010_00011_0100100001_0#32, Instr.creqv 1 2 3 false),
      (0b010011_00001_00010_00011_0110100001_0#32, Instr.crorc 1 2 3 false),
      (0b010011_00001_00010_00011_0111000001_0#32, Instr.cror 1 2 3 false),
      (0b010011_10100_00000_00000_1000010000_0#32, Instr.bcctr 20 0 0 false)],
    decodeWord p.1 = some p.2 := by decide +kernel

theorem test_decode_x_0 : ∀ p ∈
    [(0b011111_00011_00100_00101_0000000000_0#32, Instr.cmp 3 4 5 false),
      (0b011111_00011_00100_00101_0000000100_0#32, Instr.tw 3 4 5 false),
      (0b011111_00011_00100_00101_0_000001000_0#32, Instr.subfc 3 4 5 false false),
      (0b011111_00011_00100_00101_0_000001010_0#32, Instr.addc 3 4 5 false false),
      (0b011111_00011_00100_00101_0000001011_0#32, Instr.mulhwu 3 4 5 false),
      (0b011111_00011_00100_00101_0000010100_0#32, Instr.lwarx 3 4 5 false),
      (0b011111_00011_00100_00101_0000010111_0#32, Instr.lwzx 3 4 5 false),
      (0b011111_00011_00100_00101_0000011000_0#32, Instr.slw 3 4 5 false),
      (0b011111_00011_00100_00101_0000011010_0#32, Instr.cntlzw 3 4 5 false),
      (0b011111_00011_00100_00101_0000011100_0#32, Instr.and 3 4 5 false),
      (0b011111_00011_00100_00101_0000100000_0#32, Instr.cmpl 3 4 5 false),
      (0b011111_00011_00100_00101_0_000101000_0#32, Instr.subf 3 4 5 false false),
      (0b011111_00011_00100_00101_0000110110_0#32, Instr.dcbst 3 4 5 false),
      (0b011111_00011_00100_00101_0000110111_0#32, Instr.lwzux 3 4 5 false),
      (0b011111_00011_00100_00101_0000111100_0#32, Instr.andc 3 4 5 false)],
    decodeWord p.1 = some p.2 := by decide +kernel

theorem test_decode_x_1 : ∀ p ∈
    [(0b011111_00011_00100_00101_0001001011_0#32, Instr.mulhw 3 4 5 false),
      (0b011111_00011_00100_00101_0001010011_0#32, Instr.mfmsr 3 4 5 false),
      (0b011111_00011_00100_00101_0001010110_0#32, Instr.dcbf 3 4 5 false),
      (0b011111_00011_00100_00101_0001010111_0#32, Instr.lbzx 3 4 5 false),
      (0b011111_00011_00100_00101_0_001101000_0#32, Instr.neg 3 4 5 false false),
      (0b011111_00011_00100_00101_0001110111_0#32, Instr.lbzux 3 4 5 false),
      (0b011111_00011_00100_00101_0001111100_0#32, Instr.nor 3 4 5 false),
      (0b011111_00011_00100_00101_0_010001000_0#32, Instr.subfe 3 4 5 false false),
      (0b011111_00011_00100_00101_0_010001010_0#32, Instr.adde 3 4 5 false false),
      (0b011111_00011_00100_00101_0010010010_0#32, Instr.mtmsr 3 4 5 false),
      (0b011111_00011_00100_00101_0010010110_1#32, Instr.stwcxDot 3 4 5 true),
      (0b011111_00011_00100_00101_0010010111_0#32, Instr.stwx 3 4 5 false),
      (0b011111_00011_00100_00101_0010110111_0#32, Instr.stwux 3 4 5 false),
      (0b011111_00011_00100_00101_0_011001000_0#32, Instr.subfze 3 4 5 false false),
      (0b011111_00011_00100_00101_0_011001010_0#32, Instr.addze 3 4 5 false false)],
    decodeWord p.1 = some p.2 := by decide +kernel

theorem test_decode_x_2 : ∀ p ∈
    [(0b011111_00011_00100_00101_0011010010_0#32, Instr.mtsr 3 4 5 false),
      (0b011111_00011_00100_00101_0011010111_0#32, Instr.stbx 3 4 5 false),
      (0b011111_00011_00100_00101_0_011101000_0#32, Instr.subfme 3 4 5 false false),
      (0b011111_00011_00100_00101_0_011101010_0#32, Instr.addme 3 4 5 false false),
      (0b011111_00011_00100_00101_0_011101011_0#32, Instr.mullw 3 4 5 false false),
      (0b011111_00011_00100_00101_0011110010_0#32, Instr.mtsrin 3 4 5 false),
      (0b011111_00011_00100_00101_0011110110_0#32, Instr.dcbtst 3 4 5 false),
      (0b011111_00011_00100_00101_0011110111_0#32, Instr.stbux 3 4 5 false),
      (0b011111_00011_00100_00101_0_100001010_0#32, Instr.add 3 4 5 false false),
      (0b011111_00011_00100_00101_0100010110_0#32, Instr.dcbt 3 4 5 false),
      (0b011111_00011_00100_00101_0100010111_0#32, Instr.lhzx 3 4 5 false),
      (0b011111_00011_00100_00101_0100011100_0#32, Instr.eqv 3 4 5 false),
      (0b011111_00011_00100_00101_0100110010_0#32, Instr.tlbie 3 4 5 false),
      (0b011111_00011_00100_00101_0100110110_0#32, Instr.eciwx 3 4 5 false),
      (0b011111_00011_00100_00101_0100110111_0#32, Instr.lhzux 3 4 5 false)],
    decodeWord p.1 = some p.2 := by decide +kernel

theorem test_decode_x_3 : ∀ p ∈
    [(0b011111_00011_00100_00101_0100111100_0#32, Instr.xor 3 4 5 false),
      (0b011111_00011_00100_00101_0101010111_0#32, Instr.lhax 3 4 5 false),
      (0b011111_00011_00100_00101_0101110111_0#32, Instr.lhaux 3 4 5 false),
      (0b011111_00011_00100_00101_0110010111_0#32, Instr.sthx 3 4 5 false),
      (0b011111_00011_00100_00101_0110011100_0#32, Instr.orc 3 4 5 false),
      (0b011111_00011_00100_00101_0110110110_0#32, Instr.ecowx 3 4 5 false),
      (0b011111_00011_00100_00101_0110110111_0#32, Instr.sthux 3 4 5 false),
      (0b011111_00011_00100_00101_0110111100_0#32, Instr.or 3 4 5 false),
      (0b011111_00011_00100_00101_0_111001011_0#32, Instr.divwu 3 4 5 false false),
      (0b011111_00011_00100_00101_0111010110_0#32, Instr.dcbi 3 4 5 false),
      (0b011111_00011_00100_00101_0111011100_0#32, Instr.nand 3 4 5 false),
      (0b011111_00011_00100_00101_0_111101011_0#32, Instr.divw 3 4 5 false false),
      (0b011111_00011_00100_00101_1000000000_0#32, Instr.mcrxr 3 4 5 false),
      (0b011111_00011_00100_00101_1000010101_0#32, Instr.lswx 3 4 5 false),
      (0b011111_00011_00100_00101_1000010110_0#32, Instr.lwbrx 3 4 5 false)],
    decodeWord p.1 = some p.2 := by decide +kernel

theorem test_decode_x_4 : ∀ p ∈
    [(0b011111_00011_00100_00101_1000010111_0#32, Instr.lfsx 3 4 5 false),
      (0b011111_00011_00100_00101_1000011000_0#32, Instr.srw 3 4 5 false),
      (0b011111_00011_00100_00101_1000110110_0#32, Instr.tlbsync 3 4 5 false),
      (0b011111_00011_00100_00101_1000110111_0#32, Instr.lfsux 3 4 5 false),
      (0b011111_00011_00100_00101_1001010011_0#32, Instr.mfsr 3 4 5 false),
      (0b011111_00011_00100_00101_1001010101_0#32, Instr.lswi 3 4 5 false),
      (0b011111_00011_00100_00101_1001010110_0#32, Instr.sync 3 4 5 false),
      (0b011111_00011_00100_00101_1001010111_0#32, Instr.lfdx 3 4 5 false),
      (0b011111_00011_00100_00101_1001110111_0#32, Instr.lfdux 3 4 5 false),
      (0b011111_00011_00100_00101_1010010011_0#32, Instr.mfsrin 3 4 5 false),
      (0b011111_00011_00100_00101_1010010101_0#32, Instr.stswx 3 4 5 false),
      (0b011111_00011_00100_00101_1010010110_0#32, Instr.stwbrx 3 4 5 false),
      (0b011111_00011_00100_00101_1010010111_0#32, Instr.stfsx 3 4 5 false),
      (0b011111_00011_00100_00101_1010110111_0#32, Instr.stfsux 3 4 5 false),
      (0b011111_00011_00100_00101_1011010101_0#32, Instr.stswi 3 4 5 false)],
    decodeWord p.1 = some p.2 := by decide +kernel

theorem test_decode_x_5 : ∀ p ∈
    [(0b011111_00011_00100_00101_1011010111_0#32, Instr.stfdx 3 4 5 false),
      (0b011111_00011_00100_00101_1011110111_0#32, Instr.stfdux 3 4 5 false),
      (0b011111_00011_00100_00101_1100010110_0#32, Instr.lhbrx 3 4 5 false),
      (0b011111_00011_00100_00101_1100011000_0#32, Instr.sraw 3 4 5 false),
      (0b011111_00011_00100_00101_1100111000_0#32, Instr.srawi 3 4 5 false),
      (0b011111_00011_00100_00101_1101010110_0#32, Instr.eieio 3 4 5 false),
      (0b011111_00011_00100_00101_1110010110_0#32, Instr.sthbrx 3 4 5 false),
      (0b011111_00011_00100_00101_1110011010_0#32, Instr.extsh 3 4 5 false),
      (0b011111_00011_00100_00101_1110111010_0#32, Instr.extsb 3 4 5 false),
      (0b011111_00011_00100_00101_1111010110_0#32, Instr.icbi 3 4 5 false),
      (0b011111_00011_00100_00101_1111010111_0#32, Instr.stfiwx 3 4 5 false),
      (0b011111_00011_00100_00101_1111110110_0#32, Instr.dcbz 3 4 5 false)],
    decodeWord p.1 = some p.2 := by decide +kernel

theorem test_decode_xfx_0 : ∀ p ∈
    [(0b011111_00011_01000_00000_0000010011_0#32, Instr.mfcr 3 8 false),
      (0b011111_00011_01000_00000_0010010000_0#32, Instr.mtcrf 3 8 false),
      (0b011111_00011_01000_00000_0101010011_0#32, Instr.mfspr 3 8 false),
      (0b011111_00011_01000_00000_0101110011_0#32, Instr.mftb 3 8 false),
      (0b011111_00011_01000_00000_0111010011_0#32, Instr.mtspr 3 8 false)],
    decodeWord p.1 = some p.2 := by decide +kernel

theorem test_decode_a_0 : ∀ p ∈
    [(0b111011_00001_00010_00011_00100_10010_0#32, Instr.fdivs 1 2 3 4 false),
      (0b111011_00001_00010_00011_00100_10100_0#32, Instr.fsubs 1 2 3 4 false),
      (0b111011_00001_00010_00011_00100_10101_0#32, Instr.fadds 1 2 3 4 false),
      (0b111011_00001_00010_00011_00100_10110_0#32, Instr.fsqrts 1 2 3 4 false),
      (0b111011_00001_00010_00011_00100_11000_0#32, Instr.fres 1 2 3 4 false),
      (0b111011_00001_00010_00011_00100_11001_0#32, Instr.fmuls 1 2 3 4 false),
      (0b111011_00001_00010_00011_00100_11100_0#32, Instr.fmsubs 1 2 3 4 false),
      (0b111011_00001_00010_00011_00100_11101_0#32, Instr.fmadds 1 2 3 4 false),
      (0b111011_00001_00010_00011_00100_11110_0#32, Instr.fnmsubs 1 2 3 4 false),
      (0b111011_00001_00010_00011_00100_11111_0#32, Instr.fnmadds 1 2 3 4 false),
      (0b111111_00001_00010_00011_00100_10010_0#32, Instr.fdiv 1 2 3 4 false),
      (0b111111_00001_00010_00011_00100_10100_0#32, Instr.fsub 1 2 3 4 false),
      (0b111111_00001_00010_00011_00100_10101_0#32, Instr.fadd 1 2 3 4 false),
      (0b111111_00001_00010_00011_00100_10110_0#32, Instr.fsqrt 1 2 3 4 false),
      (0b111111_00001_00010_00011_00100_10111_0#32, Instr.fsel 1 2 3 4 false)],
    decodeWord p.1 = some p.2 := by decide +kernel

theorem test_decode_a_1 : ∀ p ∈
    [(0b111111_00001_00010_00011_00100_11001_0#32, Instr.fmul 1 2 3 4 false),
      (0b111111_00001_00010_00011_00100_11010_0#32, Instr.frsqrte 1 2 3 4 false),
      (0b111111_00001_00010_00011_00100_11100_0#32, Instr.fmsub 1 2 3 4 false),
      (0b111111_00001_00010_00011_00100_11101_0#32, Instr.fmadd 1 2 3 4 false),
      (0b111111_00001_00010_00011_00100_11110_0#32, Instr.fnmsub 1 2 3 4 false),
      (0b111111_00001_00010_00011_00100_11111_0#32, Instr.fnmadd 1 2 3 4 false)],
    decodeWord p.1 = some p.2 := by decide +kernel

/-! ## Words that stand for no instruction (95_test_vectors.md 2.2), and bytes -/

theorem test_decode_rejects :
    ([0x00000000#32, 0x1234ABCD#32, 0x04000000#32, 0x7C0007FE#32, 0x4C0007FE#32, 0xEC000000#32, 0xE8000003#32,
      0xF8000002#32, 0x78000014#32].all fun w => (decodeWord w).isNone) = true := by decide +kernel

theorem test_decodeBytes_is_big_endian :
    (decodeBytes [0x38, 0x60, 0x00, 0x05, 0x7C]).toOption = some (.addi 3 0 5, [0x7C]) := by decide +kernel

theorem test_decodeBytes_rejects_by_name :
    (match decodeBytes [0x38, 0x60, 0x00] with | .error e => some e | .ok _ => none) = some .truncated ∧
    (match decodeBytes [0, 0, 0, 0, 1] with | .error e => some e | .ok _ => none) = some (.unknownWord 0) := by
  decide +kernel

/-! ## Whole records, one per format, through one step (95_test_vectors.md 2.2 to 2.4, 3) -/

theorem test_step_answers_d : answersTo 0x3884FFFF = some [.decoded
    { raw := 0x3884FFFF, format := .d, primaryOpcode := 14, rt := 4, ra := 4, rb := 31, imm := 65535,
      simm := BitVec.ofInt 16 (-1), rc := true }] := by decide +kernel

theorem test_step_answers_b : answersTo 0x4200FFF8 = some [.decoded
    { raw := 0x4200FFF8, format := .b, primaryOpcode := 16, rt := 16, rb := 31, bt := 16, bb := 31, imm := 65528,
      simm := BitVec.ofInt 16 (-8), addr := BitVec.ofInt 32 (-8) }] := by decide +kernel

theorem test_step_answers_i : answersTo 0x48000101 = some [.decoded
    { raw := 0x48000101, format := .i, primaryOpcode := 18, imm := 257, simm := 257, rc := true, addr := 256,
      lk := true }] := by decide +kernel

theorem test_step_answers_sc : answersTo 0x44000002 = some [.decoded
    { raw := 0x44000002, format := .sc, primaryOpcode := 17, imm := 2, simm := 2 }] := by decide +kernel

theorem test_step_answers_m : answersTo 0x5064298F = some [.decoded
    { raw := 0x5064298F, format := .m, primaryOpcode := 20, rt := 3, ra := 4, rb := 5, imm := 10639, simm := 10639,
      rc := true, sh := 5, mb := 6, me := 7 }] := by decide +kernel

theorem test_step_answers_md : answersTo 0x786428C0 = some [.decoded
    { raw := 0x786428C0, format := .md, primaryOpcode := 30, rt := 3, ra := 4, rb := 5, imm := 10432,
      simm := 10432 }] := by decide +kernel

theorem test_step_answers_mds : answersTo 0x786428D0 = some [.decoded
    { raw := 0x786428D0, format := .mds, primaryOpcode := 30, rt := 3, ra := 4, rb := 5, imm := 10448,
      simm := 10448 }] := by decide +kernel

theorem test_step_answers_ds : answersTo 0xE864FFF8 = some [.decoded
    { raw := 0xE864FFF8, format := .ds, primaryOpcode := 58, rt := 3, ra := 4, rb := 31, imm := 65528,
      simm := BitVec.ofInt 16 (-8) }] := by decide +kernel

theorem test_step_answers_xl : answersTo 0x4E800020 = some [.decoded
    { raw := 0x4E800020, format := .xl, primaryOpcode := 19, extendedOpcode := 16, rt := 20, bt := 20, imm := 32,
      simm := 32 }] := by decide +kernel

theorem test_step_answers_x : answersTo 0x7C601A14 = some [.decoded
    { raw := 0x7C601A14, format := .x, primaryOpcode := 31, extendedOpcode := 266, rt := 3, rb := 3, imm := 6676,
      simm := 6676 }] := by decide +kernel

theorem test_step_answers_xfx : answersTo 0x7C8903A6 = some [.decoded
    { raw := 0x7C8903A6, format := .xfx, primaryOpcode := 31, extendedOpcode := 467, rt := 4, ra := 9, imm := 934,
      simm := 934, spr := 9 }] := by decide +kernel

theorem test_step_answers_a : answersTo 0xEC221924 = some [.decoded
    { raw := 0xEC221924, format := .a, primaryOpcode := 59, extendedOpcode := 146, rt := 1, ra := 2, rb := 3,
      imm := 6436, simm := 6436, frt := 1, fra := 2, frb := 3, frc := 4 }] := by decide +kernel

theorem test_step_answers_unknown : answersTo 0x1234ABCD = some [.decoded
    { raw := 0x1234ABCD, format := .unknown, primaryOpcode := 4 }] := by decide +kernel

/-- 95_test_vectors.md P5: overlapping tables, the first matching entry wins, a secondary match stands, and without
one the primary result does. -/
theorem test_overlapping_tables :
    (lookup otherTables 0x38600005#32).map (·.mnemonic) = some "li" ∧
    (lookup otherTables 0x38640005#32).map (·.mnemonic) = some "addi" ∧
    (lookup otherTables 0x7C601A14#32).map (·.mnemonic) = some "add" ∧
    (lookup otherTables 0x7C601A16#32).map (·.mnemonic) = some "op31" ∧
    lookup otherTables 0x4E800020#32 = none := by decide +kernel

/-- R161: the name follows `raw`, whatever the other fields say. -/
theorem test_name_of_a_falsified_record :
    instructionName defaultTables { raw := 0x38600005, format := .x, primaryOpcode := 31, extendedOpcode := 266 } =
      "addi" := by decide +kernel

/-! ## Ill-formed terms are refused (10_state.md R26, R27) -/

theorem test_wf_entry :
    DecodeTableEntry.wf ⟨0xFC000000#32, 0x38000000#32, .d, "addi"⟩ = true ∧
    DecodeTableEntry.wf ⟨0xFC000000#32, 0x38000001#32, .d, "addi"⟩ = false ∧
    DecodeTableEntry.wf ⟨0xFC000000#32, 0x38000000#32, .unknown, "addi"⟩ = false := by decide +kernel

theorem test_wf_tables :
    TablesOf.wf defaultTables = true ∧ TablesOf.wf otherTables = true ∧
    TablesOf.wf { otherTables with a := [⟨0xFC000000#32, 0xFC000000#32, .a, "unknown"⟩] } = false ∧
    TablesOf.wf { otherTables with xl := [⟨0#32, 1#32, .xl, "mcrf"⟩] } = false := by decide +kernel

/-- One ill-formed record per check of `DecodedInstruction.wf`. -/
theorem test_wf_record :
    (DecodedInstruction.wf { raw := 0x38600005, format := .d, primaryOpcode := 14, rt := 3, imm := 5 } = true) ∧
    ∀ d ∈ ([{ raw := 0x38600005, format := .d, primaryOpcode := 15 },
      { raw := 0, format := .d, primaryOpcode := 0, extendedOpcode := 1 },
      { raw := 0, format := .d, primaryOpcode := 0, bt := 1 },
      { raw := 0, format := .i, primaryOpcode := 0, ba := 1 },
      { raw := 0, format := .x, primaryOpcode := 0, bb := 1 },
      { raw := 0, format := .xl, primaryOpcode := 0, frt := 1 },
      { raw := 0, format := .x, primaryOpcode := 0, fra := 1 },
      { raw := 0, format := .x, primaryOpcode := 0, frb := 1 },
      { raw := 0, format := .x, primaryOpcode := 0, frc := 1 },
      { raw := 0, format := .x, primaryOpcode := 0, addr := 1 },
      { raw := 0, format := .xl, primaryOpcode := 0, aa := true },
      { raw := 0, format := .x, primaryOpcode := 0, spr := 1 },
      { raw := 0, format := .md, primaryOpcode := 0, sh := 1 },
      { raw := 0, format := .md, primaryOpcode := 0, mb := 1 },
      { raw := 0, format := .md, primaryOpcode := 0, me := 1 },
      { raw := 0, format := .xfx, primaryOpcode := 0, oe := true },
      { raw := 0, format := .x, primaryOpcode := 0, lk := true },
      { raw := 0, primaryOpcode := 0, rt := 1 },
      { raw := 0, primaryOpcode := 0, imm := 1 },
      { raw := 0, primaryOpcode := 0, simm := 1 },
      { raw := 0, primaryOpcode := 0, rc := true }] : List DecodedInstruction), d.wf = false := by decide +kernel

/-! ## init, destroy, translate, flush (70_reset_and_hazards.md R700, R701; 95_test_vectors.md 2.5, 2.7) -/

theorem test_init :
    after (.init 0x20000#64) (MemorySystem.uninit 64) (fun m => (m.ramSize, m.dtlb.get 5,
      m.itlb.get 5, (m.dtlb.get 16).valid, counters m)) =
    some (131072, ⟨0x5000, 0x5000, 3, true⟩, ⟨0x5000, 0x5000, 5, true⟩, false, (0, 0)) := by decide +kernel

theorem test_init_zero : resultOf (.read8 0) (MemorySystem.afterInit 64 0) = some (.value8 0) := by decide +kernel

theorem test_destroy :
    after .destroy started MemorySystem.life = some .destroyed ∧
    resultOf (.read8 0) { started with life := .destroyed } = none ∧
    resultOf .destroy { started with life := .destroyed } = none ∧
    resultOf (.read8 0) (MemorySystem.uninit 64) = none := by decide +kernel

theorem test_initAllocationFailure :
    resultOf (.initAllocationFailure 0x20000#64) started = some .allocationFailure ∧
    after (.initAllocationFailure 0x20000#64) started MemorySystem.life = some .uninit := by decide +kernel

theorem test_translate_hit :
    resultOf (.translate 0xF123#64 true) started = some (.paddr 0xF123#64) ∧
    after (.translate 0xF123#64 true) started (fun m => (counters m, m.itlb.get 15)) =
      some ((1, 0), ⟨0xF000, 0xF000, 5, true⟩) := by decide +kernel

theorem test_translate_miss :
    resultOf (.translate 0xFFFFFFFFFFFFFFFF#64 true) started = some (.paddr 0xFFFFFFFFFFFFFFFF#64) ∧
    after (.translate 0xFFFFFFFFFFFFFFFF#64 true) started
      (fun m => (counters m, m.itlb.get 63, (m.dtlb.get 63).valid)) =
      some ((0, 1), ⟨0xFFFFFFFFFFFFF000, 0xFFFFFFFFFFFFF000, 7, true⟩, false) := by decide +kernel

/-- A page that collides with a seed evicts it (steps 10 and 11). -/
theorem test_translate_collision :
    after (.translate 0x40000#64 false) started (fun m => (counters m, m.dtlb.get 0)) =
      some ((0, 1), ⟨0x40000, 0x40000, 7, true⟩) ∧
    after (.translate 0#64 false) (translate 0x40000#64 false started).2
      (fun m => (counters m, m.dtlb.get 0)) = some ((0, 2), ⟨0, 0, 7, true⟩) := by decide +kernel

theorem test_flush :
    after .flush started (fun m => (counters m, m.dtlb.get 1, m.itlb.get 15)) =
      some ((0, 0), ⟨0x1000, 0x1000, 3, false⟩, ⟨0xF000, 0xF000, 5, false⟩) := by decide +kernel

theorem test_readCounters :
    resultOf .readTlbHits { started with tlbHits := 6, tlbMisses := 14 } = some (.count 6) ∧
    resultOf .readTlbMisses { started with tlbHits := 6, tlbMisses := 14 } = some (.count 14) := by decide +kernel

/-! ## The sized accessors (95_test_vectors.md 2.6) -/

theorem test_read8 :
    resultOf (.read8 0x103#64) fourBytes = some (.value8 4) ∧
    after (.read8 0x20000#64) lastWord counters = some (0, 1) ∧
    resultOf (.read8 0xFFFFFFFFFFFFFFFF#64) lastWord = some (.value8 0) := by decide +kernel

theorem test_read16 :
    resultOf (.read16 0x101#64) fourBytes = some (.value16 0x0203#16) ∧
    resultOf (.read16 0x1FFFF#64) lastWord = some (.value16 0) := by decide +kernel

theorem test_read32 :
    resultOf (.read32 0xFE#64) fourBytes = some (.value32 0x00000102#32) ∧
    resultOf (.read32 0x1FFFC#64) lastWord = some (.value32 0x11223344#32) ∧
    resultOf (.read32 0x1FFFD#64) lastWord = some (.value32 0) := by decide +kernel

theorem test_read64 :
    resultOf (.read64 0x100#64) fourBytes = some (.value64 0x0102030400000000#64) ∧
    resultOf (.read64 0x1FFF8#64) lastWord = some (.value64 0x0000000011223344#64) ∧
    resultOf (.read64 0x1FFF9#64) lastWord = some (.value64 0) ∧
    resultOf (.read64 0xFFFFFFFFFFFFFFF8#64) lastWord = some (.value64 0) := by decide +kernel

/-- Writing the byte that an unlisted offset reads as removes the entry: the canonical form. -/
theorem test_write8 :
    after (.write8 0x200#64 0xAB#8) started (·.ram) = some [(0x200, 0xAB)] ∧
    after (.write8 0x101#64 0#8) fourBytes (·.ram) = some [(0x100, 1), (0x102, 3), (0x103, 4)] ∧
    after (.write8 0x20000#64 0x55#8) started (fun m => (m.ram, counters m)) = some ([], (0, 1)) := by decide +kernel

theorem test_write16 :
    after (.write16 0x300#64 0xBEEF#16) started (·.ram) = some [(0x300, 0xBE), (0x301, 0xEF)] := by decide +kernel

/-- An access that crosses into the next page translates the first page only (step 24); one that straddles the end
of RAM is discarded whole (step 31). -/
theorem test_write32 :
    after (.write32 0xFFE#64 0xCAFEF00D#32) started (fun m => (m.ram, counters m, m.dtlb.get 1)) =
      some ([(0xFFE, 0xCA), (0xFFF, 0xFE), (0x1000, 0xF0), (0x1001, 0x0D)], (1, 0), ⟨0x1000, 0x1000, 3, true⟩) ∧
    after (.write32 0x1FFFD#64 0xFFFFFFFF#32) lastWord (·.ram) = some lastWord.ram := by decide +kernel

theorem test_write64 :
    after (.write64 0x400#64 0x1122334455667788#64) started (·.ram) =
      some [(0x400, 0x11), (0x401, 0x22), (0x402, 0x33), (0x403, 0x44), (0x404, 0x55), (0x405, 0x66), (0x406, 0x77),
        (0x407, 0x88)] ∧
    after (.write64 0xFFFFFFFFFFFFFFFC#64 0x0102030405060708#64) lastWord (fun m => (m.ram, counters m)) =
      some (lastWord.ram, (0, 1)) := by decide +kernel

/-! ## Witnesses: the decoder, for any tables -/

/-- An entry of each format decides a word (the third is XFL, under tables that have one). -/
def wordOfFormat : InstructionFormat → Tables × Word
  | .i => (defaultTables, 0x4BFFFFFD#32)
  | .b => (defaultTables, 0x4182FFF9#32)
  | .sc => (defaultTables, 0x44000002#32)
  | .d => (defaultTables, 0x3884FFFF#32)
  | .ds => (defaultTables, 0xE864FFF8#32)
  | .x => (defaultTables, 0x7C601E15#32)
  | .xl => (defaultTables, 0x4E800021#32)
  | .xfx => (defaultTables, 0x7C8903A6#32)
  | .xfl => (otherTables, 0x04000005#32)
  | .a => (defaultTables, 0xEC221924#32)
  | .m => (defaultTables, 0x5064298F#32)
  | .md => (defaultTables, 0x786428C0#32)
  | .mds => (defaultTables, 0x786428D0#32)
  | .unknown => (defaultTables, 0#32)

/-- For FormatIsTheDecidingEntrys, MatchedWordFillsTheCommonFields, BranchArmsExtractTheDisplacement,
DsArmMasksTheDisplacement, RegisterArmsExtractTheirFields, ArmsThatWriteNothing and DisplacementsStayInTheirRanges. -/
theorem witness_a_word_of_each_format :
    (∀ f ∈ ([.i, .b, .sc, .d, .ds, .x, .xl, .xfx, .xfl, .a, .m, .md, .mds] : List InstructionFormat),
      (lookup (wordOfFormat f).1 (wordOfFormat f).2).map (·.format) = some f) ∧
    lookup (wordOfFormat .unknown).1 (wordOfFormat .unknown).2 = none := by decide +kernel

theorem witness_ScanTakesTheFirstMatchingEntry :
    (0x38000001#32 &&& ~~~0xFC000000#32 ≠ 0#32) ∧ scan otherTables.primary 0x00000000#32 = none ∧
    scan otherTables.primary 0x38600005#32 = some ⟨0xFC1F0000#32, 0x38000000#32, .d, "li"⟩ := by decide +kernel

theorem witness_SecondaryMatchStandsElsePrimaryResult :
    (0x4E800020#32 : Word).toNat / 2 ^ 26 = 19 ∧ (0x7C601A14#32 : Word).toNat / 2 ^ 26 = 31 ∧
    (0xEC221924#32 : Word).toNat / 2 ^ 26 = 59 ∧ (0xFC221924#32 : Word).toNat / 2 ^ 26 = 63 ∧
    (0x38600005#32 : Word).toNat / 2 ^ 26 ∉ [19, 31, 59, 63] := by decide +kernel

/-- The ends of the ranges are reached. -/
theorem witness_DisplacementsStayInTheirRanges :
    (decode defaultTables 0x38007FFF#32).simm.toInt = 32767 ∧
    (decode defaultTables 0x38008000#32).simm.toInt = -32768 ∧
    (decode defaultTables 0xE8007FFC#32).simm.toInt = 32764 ∧
    (decode defaultTables 0x49FFFFFC#32).addr.toInt = 33554428 ∧
    (decode defaultTables 0x4A000000#32).addr.toInt = -33554432 ∧
    (decode defaultTables 0x40007FFC#32).addr.toInt = 32764 ∧
    (decode defaultTables 0x40008000#32).addr.toInt = -32768 := by decide +kernel

theorem witness_DecodedRecordsAreWellFormed :
    TablesOf.wf defaultTables = true ∧ (decode defaultTables 0x38600005#32).wf = true := by decide +kernel

theorem witness_NameReadsOnlyTheWord :
    (lookup defaultTables 0x38600005#32).isSome = true ∧ lookup defaultTables 0#32 = none ∧
    ({ raw := 5, primaryOpcode := 0 } : DecodedInstruction) ≠ { raw := 5, primaryOpcode := 31, rt := 3 } := by
  decide +kernel

theorem witness_NameAndFormatAgree :
    TablesOf.wf defaultTables = true ∧ (decode defaultTables 0x38600005#32).format ≠ .unknown ∧
    (decode defaultTables 0#32).format = .unknown := by decide +kernel

/-! ## Witnesses: the default tables -/

theorem witness_DefaultEntryDecidesEveryWordItSelects :
    (∃ e ∈ defaultTables.primary, 0x38600005#32 &&& e.mask = e.matchBits) ∧
    (∃ e ∈ defaultTables.a, 0xEC221924#32 &&& e.mask = e.matchBits) ∧
    (∃ e ∈ defaultTables.xl, 0x4E800020#32 &&& e.mask = e.matchBits ∧ (0x4E800020#32 : Word).toNat / 2 ^ 26 = 19) ∧
    (∃ e ∈ defaultTables.x ++ defaultTables.xfx,
      0x7C8903A6#32 &&& e.mask = e.matchBits ∧ (0x7C8903A6#32 : Word).toNat / 2 ^ 26 = 31) := by decide +kernel

theorem witness_DecodeThenEncode : decodeWord 0x7C601A14#32 = some (.add 3 0 3 false false) := by decide +kernel

theorem witness_NameOfAnInstructionIsItsMnemonic :
    ({ raw := 0x38600005, primaryOpcode := 0 } : DecodedInstruction).raw = encode (.addi 3 0 5) := by decide +kernel

/-! ## Witnesses: the instructions by format -/

theorem witness_instruction_lists :
    (Instr.tdi, 2) ∈ instructionsD ∧ (Instr.rlwimi, 20) ∈ instructionsM ∧ (Instr.rldicl, 0) ∈ instructionsMd ∧
    (Instr.rldcl, 8) ∈ instructionsMds ∧ (Instr.ld, 58, 0) ∈ instructionsDs ∧ (Instr.mcrf, 0) ∈ instructionsXl ∧
    (Instr.cmp, 0) ∈ instructionsX ∧ (Instr.subfc, 8) ∈ instructionsXo ∧ (Instr.mfcr, 19) ∈ instructionsXfx ∧
    (Instr.fdivs, 59, 18) ∈ instructionsA :=
  ⟨.head _, .head _, .head _, .head _, .head _, .head _, .head _, .head _, .head _, .head _⟩

theorem witness_instruction_counts :
    instructionsD.length = 40 ∧ instructionsM.length = 3 ∧ instructionsMd.length = 4 ∧ instructionsMds.length = 2 ∧
    instructionsDs.length = 5 ∧ instructionsXl.length = 13 ∧ instructionsX.length = 73 ∧
    instructionsXo.length = 14 ∧ instructionsXfx.length = 5 ∧ instructionsA.length = 21 := by decide

/-! ## Witnesses: the step -/

/-- A machine after reset that waits to serve one request. -/
def waiting (r : Request) : State := { State.reset with requests := [r] }

theorem witness_StepRunsTheDecodedInstruction :
    (waiting (.decode 0x38600005#32)).requests = .decode 0x38600005#32 :: [] ∧
    decodeWord 0x38600005#32 = some (.addi 3 0 5) ∧ decodeTableWord 32 0x38600005 = some (.addi 3 0 5) := by
  decide +kernel

theorem witness_DecodeRequestAnswersDecode :
    (waiting (.decode 0#32)).requests = .decode 0#32 :: [] ∧
    (waiting (.decode 0x7C601A14#32)).requests = .decode 0x7C601A14#32 :: [] := by decide +kernel

theorem witness_NameRequestAnswersTheName :
    (waiting (.instructionName { raw := 5, primaryOpcode := 0 })).requests =
      .instructionName { raw := 5, primaryOpcode := 0 } :: [] := by decide +kernel

theorem witness_DecoderRequestsCommuteWithMemory :
    (∃ raw, Request.decode 5#32 = .decode raw) ∧
    (∃ d, Request.instructionName { raw := 5, primaryOpcode := 0 } = .instructionName d) := ⟨⟨_, rfl⟩, ⟨_, rfl⟩⟩

theorem witness_IdleStepChangesNothing : State.reset.requests = [] := rfl

/-! ## Witnesses: the life of the memory system -/

/-- A memory system before `init` and one after `destroy`, in a machine that waits to serve one request. -/
def unstarted (r : Request) : State := { waiting r with mem := MemorySystem.uninit 64 }
def destroyed (r : Request) : State := { waiting r with mem := { started with life := .destroyed } }

theorem witness_LiveMachineAlwaysAnswers :
    (waiting (.mem .flush)).requests = .mem .flush :: [] ∧ (waiting (.mem .flush)).mem.life = .live ∧
    (∀ op op', Request.mem .flush ≠ .overlapping op op') := ⟨rfl, rfl, fun _ _ h => (nomatch h)⟩

theorem witness_OperationsOutsideTheLifeAreRefused :
    (unstarted (.mem .flush)).mem.life = .uninit ∧ (destroyed (.mem .destroy)).mem.life = .destroyed ∧
    (∀ n, (MemOp.flush : MemOp 64) ≠ .init n) ∧ (∀ n, (MemOp.destroy : MemOp 64) ≠ .initAllocationFailure n) ∧
    (unstarted (.mem (.init 7))).requests = .mem (.init 7) :: [] ∧
    (destroyed (.mem (.initAllocationFailure 7))).requests = .mem (.initAllocationFailure 7) :: [] ∧
    (waiting (.overlapping .flush .destroy)).requests = .overlapping .flush .destroy :: [] :=
  ⟨rfl, rfl, fun _ h => (nomatch h), fun _ h => (nomatch h), rfl, rfl, rfl⟩

theorem witness_DestroyAndFailedInitEndTheLife :
    started.life = .live ∧ (∀ k, (MemOp.destroy : MemOp 64) ≠ .init k) ∧
    (∀ k, (MemOp.destroy : MemOp 64) ≠ .initAllocationFailure k) :=
  ⟨rfl, fun _ h => (nomatch h), fun _ h => (nomatch h)⟩

theorem witness_InitGivesTheResetTable : (64 : Nat) = 32 ∨ (64 : Nat) = 64 := .inr rfl

/-- `init` after `destroy`, then a use, with decoder requests between. -/
theorem witness_AdmissibleRunsNeverStop :
    Admissible .uninit [.decode 0, .mem (.init 4096), .mem (.read8 0), .mem .destroy,
      .instructionName { raw := 0, primaryOpcode := 0 }, .mem (.init 4096), .mem .flush] :=
  ⟨_, rfl, _, rfl, _, rfl, _, rfl, _, rfl, trivial⟩

/-! ## Witnesses: the translator -/

theorem witness_TranslateHit :
    started.life = .live ∧ (15 : Fin 64).val = (0xF123#64).toNat / 4096 % 64 ∧
    (started.itlb.get 15).valid = true ∧ (started.itlb.get 15).vaddrTag.toNat = (0xF123#64).toNat / 4096 * 4096 ∧
    (started.dtlb.get 15).valid = true ∧ (started.itlb.get 15).paddrBase.toNat % 4096 = 0 := by decide +kernel

/-- An invalid entry, and a valid one tagged with another page. -/
theorem witness_TranslateMiss :
    started.life = .live ∧ (16 : Fin 64).val = (0x10000#64).toNat / 4096 % 64 ∧
    ¬((started.dtlb.get 16).valid = true ∧
      (started.dtlb.get 16).vaddrTag.toNat = (0x10000#64).toNat / 4096 * 4096) ∧
    (0 : Fin 64).val = (0x40000#64).toNat / 4096 % 64 ∧ (started.itlb.get 0).valid = true ∧
    ¬((started.itlb.get 0).valid = true ∧
      (started.itlb.get 0).vaddrTag.toNat = (0x40000#64).toNat / 4096 * 4096) := by decide +kernel

theorem fourBytes_inv : fourBytes.Inv where
  itlbOk := by unfold TlbOk TlbEntry.Ok; decide +kernel
  dtlbOk := by unfold TlbOk TlbEntry.Ok; decide +kernel
  ramCanonical := by decide +kernel
  ramBelow := by decide +kernel
  sizeBelow := by decide +kernel

theorem lastWord_inv : lastWord.Inv where
  itlbOk := by unfold TlbOk TlbEntry.Ok; decide +kernel
  dtlbOk := by unfold TlbOk TlbEntry.Ok; decide +kernel
  ramCanonical := by decide +kernel
  ramBelow := by decide +kernel
  sizeBelow := by decide +kernel

theorem witness_TranslateReturnsItsArgument : fourBytes.Inv ∧ fourBytes.life = .live := ⟨fourBytes_inv, rfl⟩

theorem witness_TranslationLaws :
    translationOf (.write8 0x20000#64 1) ≠ none ∧ pageBase 0x1234#64 = pageBase 0x1FFF#64 ∧
    tlbIndex 0x10000#64 = tlbIndex 0x50000#64 ∧ pageBase 0x10000#64 ≠ pageBase 0x50000#64 ∧
    (∀ op ∈ ([.flush, .destroy, .readTlbHits, .readTlbMisses] : List (MemOp 64)),
      (resultOf op started).isSome = true) ∧
    (resultOf (.write8 0x20000#64 1) started).isSome = true ∧ started.life = .live := by decide +kernel

theorem witness_FlushClearsTheValidBitsOnly : started.life = .live ∧ (started.itlb.get 15).valid = true := by
  decide +kernel

/-! ## Witnesses: the sized accessors, with addresses at both sides of the end of RAM -/

theorem witness_ReadsReturnBigEndianBytesOrZero :
    lastWord.life = .live ∧
    (translate 0x1FFFC#64 false lastWord).1.toNat + 3 = lastWord.ramSize - 1 ∧
    (translate 0x1FFFD#64 false lastWord).1.toNat + 3 = lastWord.ramSize ∧
    (translate 0x1FFF8#64 false lastWord).1.toNat + 7 < lastWord.ramSize ∧
    (translate 0x1FFF9#64 false lastWord).1.toNat + 7 ≥ lastWord.ramSize := by decide +kernel

theorem witness_WritesStoreBigEndianBytesOrNothing :
    lastWord.life = .live ∧ Memory.wf lastWord.ram = true ∧
    (translate 0x1FFFF#64 false lastWord).1.toNat < lastWord.ramSize ∧
    (translate 0x20000#64 false lastWord).1.toNat ≥ lastWord.ramSize ∧
    (translate 0x1FFFE#64 false lastWord).1.toNat + 1 < lastWord.ramSize ∧
    (translate 0x1FFFF#64 false lastWord).1.toNat + 1 ≥ lastWord.ramSize ∧
    (translate 0x1FFFC#64 false lastWord).1.toNat + 3 < lastWord.ramSize ∧
    (translate 0x1FFFD#64 false lastWord).1.toNat + 3 ≥ lastWord.ramSize ∧
    (translate 0x1FFF8#64 false lastWord).1.toNat + 7 < lastWord.ramSize ∧
    (translate 0x1FFF9#64 false lastWord).1.toNat + 7 ≥ lastWord.ramSize := by decide +kernel

theorem witness_ReadAfterWriteReturnsTheValue :
    lastWord.Inv ∧ lastWord.life = .live ∧ (0x1FFFF#64).toNat < lastWord.ramSize ∧
    (0x1FFFE#64).toNat + 1 < lastWord.ramSize ∧ (0x1FFFC#64).toNat + 3 < lastWord.ramSize ∧
    (0x1FFF8#64).toNat + 7 < lastWord.ramSize ∧ (0x20000#64).toNat ≥ lastWord.ramSize ∧
    (0x1FFFF#64).toNat + 1 ≥ lastWord.ramSize ∧ (0x1FFFD#64).toNat + 3 ≥ lastWord.ramSize ∧
    (0x1FFF9#64).toNat + 7 ≥ lastWord.ramSize := ⟨lastWord_inv, by decide +kernel⟩

theorem witness_WideReadsAreTwoNarrowReads :
    lastWord.Inv ∧ (0x1FFFE#64).toNat + 1 < lastWord.ramSize ∧ (0x1FFFC#64).toNat + 3 < lastWord.ramSize ∧
    (0x1FFF8#64).toNat + 7 < lastWord.ramSize := ⟨lastWord_inv, by decide +kernel⟩

theorem witness_AccessTranslatesOnceAtItsFirstByte :
    translationOf (.write32 0xFFE#64 0xCAFEF00D#32) = some (0xFFE#64, false) ∧
    resultOf (.write32 0xFFE#64 0xCAFEF00D#32) started = some .done ∧
    (0 : Fin 64).val = (0xFFE#64).toNat / 4096 % 64 ∧
    translationOf (.translate 0xFFFFFFFFFFFFFFFF#64 true) = some (0xFFFFFFFFFFFFFFFF#64, true) ∧
    (63 : Fin 64).val = (0xFFFFFFFFFFFFFFFF#64).toNat / 4096 % 64 := by decide +kernel

/-! ## Witnesses: invariants and whole histories -/

/-- A state that no run from reset reaches in one step, with the invariant, from which a step goes on. -/
theorem witness_StepKeepsTheInvariant :
    State.Inv { waiting (.mem (.write8 0x100#64 0)) with mem := fourBytes } ∧
    ∃ t, step { waiting (.mem (.write8 0x100#64 0)) with mem := fourBytes } = .next t := ⟨fourBytes_inv, _, rfl⟩

/-- The same RAM written in two orders. -/
theorem witness_CanonicalRamIsDetermined :
    Memory.wf (Memory.writeByte (Memory.writeByte [] 7 1) 3 2) = true ∧
    Memory.wf (Memory.writeByte (Memory.writeByte [] 3 2) 7 1) = true ∧
    ∀ a, Memory.readByte (Memory.writeByte (Memory.writeByte [] 7 1) 3 2) a =
      Memory.readByte (Memory.writeByte (Memory.writeByte [] 3 2) 7 1) a := ⟨rfl, rfl, fun _ => rfl⟩

/-- A history: a write, a read, a flush and a read that misses. -/
def history : List (MemOp 64) := [.write8 0x200#64 0xAB#8, .read8 0x200#64, .flush, .read8 0x200#64]

theorem flushed_inv : MemorySystem.Inv { flushTlbs fourBytes with tlbMisses := 9 } where
  itlbOk := by unfold TlbOk TlbEntry.Ok; decide +kernel
  dtlbOk := by unfold TlbOk TlbEntry.Ok; decide +kernel
  ramCanonical := by decide +kernel
  ramBelow := by decide +kernel
  sizeBelow := by decide +kernel

/-- Two memory systems that hold the same data but differ in their TLBs and their counters. -/
theorem witness_TlbContentsNeverReachTheData :
    fourBytes.Inv ∧ MemorySystem.Inv { flushTlbs fourBytes with tlbMisses := 9 } ∧
    (flushTlbs fourBytes).itlb ≠ fourBytes.itlb ∧
    SameData fourBytes { flushTlbs fourBytes with tlbMisses := 9 } ∧
    (MemorySystem.performAll history fourBytes).isOk = true ∧
    (MemorySystem.performAll history { flushTlbs fourBytes with tlbMisses := 9 }).isOk = true :=
  ⟨fourBytes_inv, flushed_inv, by decide +kernel, ⟨rfl, rfl, rfl⟩, by decide +kernel, by decide +kernel⟩

/-- Two memory systems that differ in their permission flags only. -/
theorem witness_PermissionFlagsNeverMatter :
    started.withoutFlags = ({ started with dtlb := started.itlb } : MemorySystem 64).withoutFlags ∧
    started.dtlb ≠ started.itlb ∧ (MemorySystem.performAll history started).isOk = true := by decide +kernel

/-- For LastWriteWins, CountersCountTheTranslations and LastTranslatedPageIsResident. -/
theorem witness_histories :
    (∀ op ∈ history, changesLife op = false) ∧
    (MemorySystem.performAll (.init 0x20000#64 :: history) (MemorySystem.uninit 64)).isOk = true ∧
    (MemorySystem.performAll history fourBytes).isOk = true ∧
    lastWritten 0x20000 history 0x200 = 0xAB ∧
    residentPage false 16 (seededPage 16) [.translate 0x10ABC#64 false] = some 0x10000#64 ∧
    residentPage false 0 (seededPage 0) history = some 0#64 := by decide +kernel

end Sys2Proof.Machine
end

section
/-! The step and the life of the memory system: what a run of the machine does with one request, what a request on
each port does, and what each memory operation does in each life. From these rules the statements of 00_scope.md. -/

namespace Sys2Proof.Machine

/-! ## Runs -/

theorem run_zero (s : State) : Host.Core.run Sys2Proof.core 0 s = .next s := rfl

theorem run_succ_of_next {s t : State} {k : Nat} {o : Host.Outcome State Fault Refusal} (h : step s = .next t)
    (hrun : Host.Core.run Sys2Proof.core k t = o) : Host.Core.run Sys2Proof.core (k + 1) s = o := by
  have hstep : Sys2Proof.core.step s = .next t := h
  simpa only [Host.Core.run, hstep] using hrun

theorem run_succ_of_refused {s : State} {e : Refusal} (h : step s = .refused e) (k : Nat) :
    Host.Core.run Sys2Proof.core (k + 1) s = .refused e := by
  have hstep : Sys2Proof.core.step s = .refused e := h
  simp only [Host.Core.run, hstep]

theorem run_two_of_next {s t : State} {m : MemorySystem Config.addressWidth} {rest : List Request}
    {given : List Response} {x y : Response} (hs : step s = .next t)
    (ht : step t = .next { mem := m, requests := rest, responses := given ++ [x] ++ [y] }) :
    Host.Core.run Sys2Proof.core 2 s = .next { mem := m, requests := rest, responses := given ++ [x, y] } := by
  rw [List.append_cons]
  exact run_succ_of_next hs (run_succ_of_next ht (run_zero _))

/-! ## One step, by the request at the head of the queue -/

theorem step_of_idle {s : State} (hq : s.requests = []) : step s = .next s := by
  rw [step, hq]

theorem step_of_waiting {s : State} {r : Request} {rest : List Request} (hq : s.requests = r :: rest) :
    step s = serve r { s with requests := rest } := by
  rw [step, hq]

theorem step_overlapping {s : State} {op op' : MemOp Config.addressWidth} {rest : List Request}
    (hq : s.requests = .overlapping op op' :: rest) : step s = .refused .overlappingOperations :=
  step_of_waiting hq

theorem step_mem_of_ok {s : State} {op : MemOp Config.addressWidth} {rest : List Request}
    {r : MemResult Config.addressWidth} {m : MemorySystem Config.addressWidth}
    (hq : s.requests = .mem op :: rest) (hp : s.mem.perform op = .ok (r, m)) :
    step s = .next { mem := m, requests := rest, responses := s.responses ++ [.mem r] } := by
  rw [step_of_waiting hq, serve, serveMem, hp]
  rfl

theorem step_mem_of_error {s : State} {op : MemOp Config.addressWidth} {rest : List Request} {e : Refusal}
    (hq : s.requests = .mem op :: rest) (hp : s.mem.perform op = .error e) : step s = .refused e := by
  rw [step_of_waiting hq, serve, serveMem, hp]

/-! ## The decoder's ports: the answer comes from the request alone (40_decoder_ops.md R163 (e)) -/

/-- Every one of the 183 arms delivers one record, made of the operands and not of the state. -/
theorem exec_delivers (i : Instr) : ∃ d, ∀ s, exec i s = deliver d s := by
  cases i <;> exact ⟨_, fun _ => rfl⟩

theorem serveDecode_delivers (raw : Word) : ∃ d, ∀ s, serveDecode raw s = deliver d s := by
  unfold serveDecode
  cases decodeWord raw with
  | some i => exact exec_delivers i
  | none => exact ⟨recordUnknown raw, fun _ => rfl⟩

/-- The requests on the two ports of the decoder (R40, R41). -/
def IsDecoderRequest (a : Request) : Prop := (∃ raw, a = .decode raw) ∨ (∃ d, a = .instructionName d)

theorem serve_decoderRequest {a : Request} (ha : IsDecoderRequest a) :
    ∃ x, ∀ s, serve a s = .next (s.respond x) := by
  obtain ⟨raw, rfl⟩ | ⟨d, rfl⟩ := ha
  · obtain ⟨d, hd⟩ := serveDecode_delivers raw
    exact ⟨.decoded d, hd⟩
  · exact ⟨.name (instructionName defaultTables d), fun _ => rfl⟩

theorem step_decoderRequest {a : Request} (ha : IsDecoderRequest a) :
    ∃ x, ∀ (s : State) (rest : List Request), s.requests = a :: rest →
      step s = .next { mem := s.mem, requests := rest, responses := s.responses ++ [x] } := by
  obtain ⟨x, hx⟩ := serve_decoderRequest ha
  exact ⟨x, fun s rest hq => (step_of_waiting hq).trans (hx _)⟩

/-! ## The memory port: each operation in each life (10_state.md R31) -/

section Life

variable {aw : Nat} {op : MemOp aw} {m : MemorySystem aw}

/-- The operations that R31 permits in the life `Live` only: all but the two inits. -/
def NeedsLive (op : MemOp aw) : Prop := (∀ n, op ≠ .init n) ∧ (∀ n, op ≠ .initAllocationFailure n)

/-- An operation that needs a live memory system goes through the test of the life, and its result in `Live` has the
life that the operation leads to. -/
theorem perform_eq_whenLive (hop : NeedsLive op) (m : MemorySystem aw) :
    ∃ p, m.perform op = whenLive m p ∧ (m.life = .live → lifeAfter op .live = some p.2.life) := by
  have stays {m' : MemorySystem aw} (hm : m'.life = m.life) (hl : m.life = .live) : some Life.live = some m'.life := by
    rw [hm, hl]
  cases op with
  | init n => exact absurd rfl (hop.1 n)
  | initAllocationFailure n => exact absurd rfl (hop.2 n)
  | destroy => exact ⟨_, rfl, fun _ => rfl⟩
  | translate v f => exact ⟨_, rfl, stays (translate_life v f m)⟩
  | flush => exact ⟨_, rfl, stays (flushTlbs_life m)⟩
  | read8 v => exact ⟨_, rfl, stays (life_accessRead 1 v m)⟩
  | read16 v => exact ⟨_, rfl, stays (life_accessRead 2 v m)⟩
  | read32 v => exact ⟨_, rfl, stays (life_accessRead 4 v m)⟩
  | read64 v => exact ⟨_, rfl, stays (life_accessRead 8 v m)⟩
  | write8 v x => exact ⟨_, rfl, stays (life_accessWrite 1 v x m)⟩
  | write16 v x => exact ⟨_, rfl, stays (life_accessWrite 2 v x m)⟩
  | write32 v x => exact ⟨_, rfl, stays (life_accessWrite 4 v x m)⟩
  | write64 v x => exact ⟨_, rfl, stays (life_accessWrite 8 v x m)⟩
  | readTlbHits => exact ⟨_, rfl, stays rfl⟩
  | readTlbMisses => exact ⟨_, rfl, stays rfl⟩

theorem perform_of_not_live (hop : NeedsLive op) (hl : m.life ≠ .live) :
    m.perform op = .error (if m.life = .uninit then .beforeInit else .afterDestroy) := by
  obtain ⟨p, hp, -⟩ := perform_eq_whenLive hop m
  rw [hp, whenLive_of_not_live hl]

theorem lifeAfter_of_not_live (hop : NeedsLive op) {l : Life} (hl : l ≠ .live) : lifeAfter op l = none := by
  cases op with
  | init n => exact absurd rfl (hop.1 n)
  | initAllocationFailure n => exact absurd rfl (hop.2 n)
  | _ =>
    cases l with
    | live => exact absurd rfl hl
    | uninit => rfl
    | destroyed => rfl

theorem exists_lifeAfter_live (op : MemOp aw) : ∃ l, lifeAfter op .live = some l := by
  cases op <;> exact ⟨_, rfl⟩

theorem init_or_needsLive (op : MemOp aw) :
    (∃ n, op = .init n) ∨ (∃ n, op = .initAllocationFailure n) ∨ NeedsLive op := by
  cases op with
  | init n => exact .inl ⟨n, rfl⟩
  | initAllocationFailure n => exact .inr (.inl ⟨n, rfl⟩)
  | _ => exact .inr (.inr ⟨nofun, nofun⟩)

/-- An operation that the life permits is performed, and leaves the life it leads to (R31, R607, R701). -/
theorem perform_of_lifeAfter {l : Life} (h : lifeAfter op m.life = some l) :
    ∃ r m', m.perform op = .ok (r, m') ∧ m'.life = l := by
  obtain ⟨n, rfl⟩ | ⟨n, rfl⟩ | hop := init_or_needsLive op
  · exact ⟨.done, initInstance n, rfl, Option.some.inj h⟩
  · exact ⟨.allocationFailure, initAllocationFails, rfl, Option.some.inj h⟩
  · have hlive : m.life = .live := by
      by_contra hl
      exact absurd (h.symm.trans (lifeAfter_of_not_live hop hl)) (Option.some_ne_none l)
    obtain ⟨p, hp, hlife⟩ := perform_eq_whenLive hop m
    rw [hlive, hlife hlive] at h
    exact ⟨p.1, p.2, hp.trans (whenLive_of_live hlive p), Option.some.inj h⟩

theorem perform_of_live (op : MemOp aw) (hl : m.life = .live) :
    ∃ r m', m.perform op = .ok (r, m') ∧ lifeAfter op .live = some m'.life := by
  obtain ⟨l, h⟩ := exists_lifeAfter_live op
  obtain ⟨r, m', hp, rfl⟩ := perform_of_lifeAfter (m := m) (hl ▸ h)
  exact ⟨r, m', hp, h⟩

end Life

/-! ## The statements -/

/-- The request whose turn it is has a meaning: it is answered, and the rest of the queue is admissible for the life
it leads to. -/
theorem step_of_admissible {s : State} {r : Request} {rest : List Request} (hq : s.requests = r :: rest)
    (h : Admissible s.mem.life (r :: rest)) :
    ∃ x m, step s = .next { mem := m, requests := rest, responses := s.responses ++ [x] } ∧
      Admissible m.life rest := by
  cases r with
  | decode raw =>
    obtain ⟨x, hx⟩ := step_decoderRequest (.inl ⟨raw, rfl⟩)
    exact ⟨x, s.mem, hx s rest hq, h⟩
  | instructionName d =>
    obtain ⟨x, hx⟩ := step_decoderRequest (.inr ⟨d, rfl⟩)
    exact ⟨x, s.mem, hx s rest hq, h⟩
  | mem op =>
    obtain ⟨l, hl, hrest⟩ := h
    obtain ⟨a, m, hp, rfl⟩ := perform_of_lifeAfter hl
    exact ⟨.mem a, m, step_mem_of_ok hq hp, hrest⟩
  | overlapping op op' => exact h.elim

/-- Settles O40, by induction on the number of steps: each step serves the request at the head, and what waits behind
it is admissible again. -/
theorem admissibleRunsNeverStop : Obligations.AdmissibleRunsNeverStop := by
  intro s hs k
  induction k generalizing s with
  | zero => exact ⟨s, run_zero s, by simp, by simp⟩
  | succ k ih =>
    cases hq : s.requests with
    | nil =>
      obtain ⟨t, hrun, hreq, hresp⟩ := ih s hs
      exact ⟨t, run_succ_of_next (step_of_idle hq) hrun, by simpa [hq] using hreq, by simpa [hq] using hresp⟩
    | cons r rest =>
      obtain ⟨x, m, hstep, hrest⟩ := step_of_admissible hq (hq ▸ hs)
      obtain ⟨t, hrun, hreq, hresp⟩ := ih ⟨m, rest, s.responses ++ [x]⟩ hrest
      refine ⟨t, run_succ_of_next hstep hrun, hreq, ?_⟩
      simp only [List.length_append, List.length_cons, List.length_nil] at hresp ⊢
      omega

/-- Settles O33: the decoder's answer does not depend on the memory system and leaves it as it is, so the memory
operation meets the same one in both orders. -/
theorem decoderRequestsCommuteWithMemory : Obligations.DecoderRequestsCommuteWithMemory := by
  intro s a op rest ha
  obtain ⟨x, hx⟩ := step_decoderRequest ha
  have decoderFirst := hx { s with requests := a :: .mem op :: rest } _ rfl
  cases hp : s.mem.perform op with
  | ok p =>
    obtain ⟨r, m⟩ := p
    exact .inl ⟨x, .mem r, m, run_two_of_next decoderFirst (step_mem_of_ok rfl hp),
      run_two_of_next (step_mem_of_ok rfl hp) (hx _ rest rfl)⟩
  | error e =>
    have memFirst : step { s with requests := .mem op :: a :: rest } = .refused e := step_mem_of_error rfl hp
    have memSecond : step { s with requests := .mem op :: rest, responses := s.responses ++ [x] } = .refused e :=
      step_mem_of_error rfl hp
    exact .inr ⟨e, run_succ_of_next decoderFirst (run_succ_of_refused memSecond 0), run_succ_of_refused memFirst 1⟩

/-- Settles O37: a live memory system performs every operation, and the decoder answers whatever the state. -/
theorem liveMachineAlwaysAnswers : Obligations.LiveMachineAlwaysAnswers := by
  refine ⟨⟨nofun⟩, fun s r rest hq hlive hr => ?_⟩
  have hmem (op) (hop : r = .mem op) : ∃ answer m, s.mem.perform op = .ok (answer, m) ∧
      lifeAfter op .live = some m.life ∧
      step s = .next { mem := m, requests := rest, responses := s.responses ++ [.mem answer] } := by
    obtain ⟨answer, m, hp, hlife⟩ := perform_of_live op hlive
    exact ⟨answer, m, hp, hlife, step_mem_of_ok (hop ▸ hq) hp⟩
  refine ⟨?_, hmem⟩
  cases r with
  | decode raw =>
    obtain ⟨x, hx⟩ := step_decoderRequest (.inl ⟨raw, rfl⟩)
    exact ⟨x, s.mem, hx s rest hq⟩
  | instructionName d =>
    obtain ⟨x, hx⟩ := step_decoderRequest (.inr ⟨d, rfl⟩)
    exact ⟨x, s.mem, hx s rest hq⟩
  | mem op =>
    obtain ⟨answer, m, -, -, hstep⟩ := hmem op rfl
    exact ⟨.mem answer, m, hstep⟩
  | overlapping op op' => exact absurd rfl (hr op op')

/-- Settles O38: outside `Live` the test of the life refuses what needs it, and the two inits make no
such test. -/
theorem operationsOutsideTheLifeAreRefused : Obligations.OperationsOutsideTheLifeAreRefused := by
  intro s op op' rest
  refine ⟨fun hq hinit hfail => ?_, fun n hq => ?_, fun n hq => ?_, step_overlapping⟩
  · have refused (hl : s.mem.life ≠ .live) := step_mem_of_error hq (perform_of_not_live ⟨hinit, hfail⟩ hl)
    exact ⟨fun h => by simpa [h] using refused, fun h => by simpa [h] using refused⟩
  · exact ⟨initInstance n, rfl, rfl, rfl, step_mem_of_ok hq rfl⟩
  · exact ⟨initAllocationFails, rfl, rfl, step_mem_of_ok hq rfl⟩

/-- Settles O34. -/
theorem idleStepChangesNothing : Obligations.IdleStepChangesNothing := fun _ => step_of_idle

end Sys2Proof.Machine
end

section
/-! The decoder's port: a found row stands in its table and selects the word, and every row reads from its word an
instruction that delivers the generic extraction of that word. From these rules the statements of 40_decoder_ops.md
about the answers. -/

namespace Sys2Proof.Machine

/-! ## The row a lookup finds (40_decoder_ops.md R142 to R146) -/

/-- A row of the tables among those the word is dispatched to. -/
def IsConsulted {α : Type} (T : TablesOf α) (raw : Word) (r : α) : Prop :=
  r ∈ T.primary ∨ (r ∈ T.xl ∧ fieldPrimaryOpcode raw = 19) ∨
    ((r ∈ T.x ∨ r ∈ T.xfx) ∧ fieldPrimaryOpcode raw = 31) ∨ r ∈ T.a

theorem scanRows_eq_some {α : Type} {entryOf : α → DecodeTableEntry} {table : List α} {raw : Word} {r : α}
    (h : scanRows entryOf table raw = some r) : r ∈ table ∧ (entryOf r).selects raw = true :=
  ⟨List.mem_of_find?_eq_some h, List.find?_some (p := fun r => (entryOf r).selects raw) h⟩

theorem secondaryRow_eq_some {α : Type} {entryOf : α → DecodeTableEntry} {T : TablesOf α} {raw : Word} {r : α}
    (h : secondaryRow entryOf T raw = some r) : IsConsulted T raw r ∧ (entryOf r).selects raw = true := by
  unfold secondaryRow at h
  split at h
  next hop =>
    obtain ⟨hmem, hsel⟩ := scanRows_eq_some h
    exact ⟨.inr (.inl ⟨hmem, hop⟩), hsel⟩
  split at h
  next hop =>
    split at h
    next r' hx =>
      obtain ⟨hmem, hsel⟩ := scanRows_eq_some (hx.trans h)
      exact ⟨.inr (.inr (.inl ⟨.inl hmem, hop⟩)), hsel⟩
    next =>
      obtain ⟨hmem, hsel⟩ := scanRows_eq_some h
      exact ⟨.inr (.inr (.inl ⟨.inr hmem, hop⟩)), hsel⟩
  split at h
  next =>
    obtain ⟨hmem, hsel⟩ := scanRows_eq_some h
    exact ⟨.inr (.inr (.inr hmem)), hsel⟩
  next => cases h

theorem lookupRow_eq_some {α : Type} {entryOf : α → DecodeTableEntry} {T : TablesOf α} {raw : Word} {r : α}
    (h : lookupRow entryOf T raw = some r) : IsConsulted T raw r ∧ (entryOf r).selects raw = true := by
  unfold lookupRow at h
  split at h
  next r' hr => exact secondaryRow_eq_some (hr.trans h)
  next =>
    obtain ⟨hmem, hsel⟩ := scanRows_eq_some h
    exact ⟨.inl hmem, hsel⟩

/-! ## The record of a word -/

theorem decode_of_lookup_some {T : Tables} {raw : Word} {e : DecodeTableEntry} (h : lookup T raw = some e) :
    decode T raw = recordOfFormat e.format raw := by
  rw [decode, h]

theorem decode_of_lookup_none {T : Tables} {raw : Word} (h : lookup T raw = none) :
    decode T raw = recordUnknown raw := by
  rw [decode, h]

theorem recordOfFormat_raw (format : InstructionFormat) (raw : Word) : (recordOfFormat format raw).raw = raw := by
  cases format <;> rfl

@[simp] theorem decode_raw (T : Tables) (raw : Word) : (decode T raw).raw = raw := by
  cases h : lookup T raw with
  | none => rw [decode_of_lookup_none h, recordUnknown]
  | some e => rw [decode_of_lookup_some h, recordOfFormat_raw]

theorem wf_recordUnknown (raw : Word) : (recordUnknown raw).wf = true := by
  simp [recordUnknown, DecodedInstruction.wf, fieldPrimaryOpcode]

/-- Each arm fills the fields of its own format only. -/
theorem wf_recordOfFormat {format : InstructionFormat} (h : format ≠ .unknown) (raw : Word) :
    (recordOfFormat format raw).wf = true := by
  cases format with
  | unknown => exact absurd rfl h
  | _ =>
    simp [recordOfFormat, withFormatFields, withExtendedOpcode, withCommonFields, recordUnknown,
      DecodedInstruction.wf, fieldPrimaryOpcode]

/-- An entry of well-formed tables never has the format of an unmatched word (10_state.md R26). -/
theorem format_ne_unknown_of_lookup {T : Tables} (hT : TablesOf.wf T = true) {raw : Word} {e : DecodeTableEntry}
    (h : lookup T raw = some e) : e.format ≠ .unknown := by
  have hmem : e ∈ T.primary ++ T.xl ++ T.x ++ T.xfx ++ T.a := by
    rcases (lookupRow_eq_some h).1 with hp | ⟨hxl, -⟩ | ⟨hx | hxfx, -⟩ | ha <;> simp [*]
  have hwf := List.all_eq_true.mp hT e hmem
  simp only [DecodeTableEntry.wf, Bool.and_eq_true, bne_iff_ne] at hwf
  exact hwf.1.2

/-- Settles O11: an unmatched word's record is all default, and an arm never writes outside its format. -/
theorem decodedRecordsAreWellFormed : Obligations.DecodedRecordsAreWellFormed := by
  intro T raw hT
  cases h : lookup T raw with
  | none => rw [decode_of_lookup_none h]; exact wf_recordUnknown raw
  | some e => rw [decode_of_lookup_some h]; exact wf_recordOfFormat (format_ne_unknown_of_lookup hT h) raw

/-! ## What each row delivers -/

/-- A record that is the generic extraction (R148 to R160) of its own word under its own format. -/
def IsExtraction (d : DecodedInstruction) : Prop := recordOfFormat d.format d.raw = d

@[simp] theorem isExtraction_recordD (op rt ra imm) : IsExtraction (recordD op rt ra imm) :=
  recordOfFormat_layoutD op rt ra imm
@[simp] theorem isExtraction_recordB (op bt ba bd aa lk) : IsExtraction (recordB op bt ba bd aa lk) :=
  recordOfFormat_layoutB op bt ba bd aa lk
@[simp] theorem isExtraction_recordSc (op low) : IsExtraction (recordSc op low) :=
  recordOfFormat_layoutSc op low
@[simp] theorem isExtraction_recordI (op li aa lk) : IsExtraction (recordI op li aa lk) :=
  recordOfFormat_layoutI op li aa lk
@[simp] theorem isExtraction_recordM (op rt ra sh mb me rc) : IsExtraction (recordM op rt ra sh mb me rc) :=
  recordOfFormat_layoutM op rt ra sh mb me rc
@[simp] theorem isExtraction_recordMd (op sel rt ra rb mid low) : IsExtraction (recordMd op sel rt ra rb mid low) :=
  recordOfFormat_layoutMd op sel rt ra rb mid low
@[simp] theorem isExtraction_recordMds (op sel rt ra rb mid rc) : IsExtraction (recordMds op sel rt ra rb mid rc) :=
  recordOfFormat_layoutMds op sel rt ra rb mid rc
@[simp] theorem isExtraction_recordDs (op xo rt ra ds) : IsExtraction (recordDs op xo rt ra ds) :=
  recordOfFormat_layoutDs op xo rt ra ds
@[simp] theorem isExtraction_recordXl (op xo bt ba bb lk) : IsExtraction (recordXl op xo bt ba bb lk) :=
  recordOfFormat_layoutXl op xo bt ba bb lk
@[simp] theorem isExtraction_recordX (op xo rt ra rb rc) : IsExtraction (recordX op xo rt ra rb rc) :=
  recordOfFormat_layoutX op xo rt ra rb rc
@[simp] theorem isExtraction_recordXo (op xo rt ra rb oe rc) : IsExtraction (recordXo op xo rt ra rb oe rc) :=
  recordOfFormat_layoutXo op xo rt ra rb oe rc
@[simp] theorem isExtraction_recordXfx (op xo rt spr rc) : IsExtraction (recordXfx op xo rt spr rc) :=
  recordOfFormat_layoutXfx op xo rt spr rc
@[simp] theorem isExtraction_recordA (op sub frt fra frb frc rc) : IsExtraction (recordA op sub frt fra frb frc rc) :=
  recordOfFormat_layoutA op sub frt fra frb frc rc

/-- The instruction a row reads from any word delivers the generic extraction, in the format of the row's entry, of
the word that encodes the instruction. -/
def DeliversExtraction (r : TableRow) : Prop :=
  ∀ raw, ∃ d, (∀ s, exec (r.build raw) s = deliver d s) ∧ d.format = r.entry.format ∧
    d.raw = encode (r.build raw) ∧ IsExtraction d

/-- Row by row: what `exec` answers is read off its arm, and its record is one of the thirteen of the layouts. -/
theorem deliversExtraction_primaryRows : ∀ r ∈ primaryRows, DeliversExtraction r := by
  simp only [primaryRows, primaryRows1, primaryRows2, primaryRows3, primaryRows4, List.forall_mem_append,
    List.forall_mem_cons, List.not_mem_nil, false_implies, implies_true, and_true]
  and_intros <;> exact fun raw => ⟨_, fun _ => rfl, rfl, rfl, by simp⟩

/-- The same of the rows of the secondary families. -/
theorem deliversExtraction_secondaryRows : ∀ r ∈ xlRows ++ (xRows ++ xfxRows) ++ aRows, DeliversExtraction r := by
  simp only [xlRows, xlRows1, xRows, xRows1, xRows2, xRows3, xRows4, xRows5, xRows6, xfxRows, xfxRows1, aRows, aRows1,
    aRows2, List.forall_mem_append, List.forall_mem_cons, List.not_mem_nil, false_implies, implies_true, and_true]
  and_intros <;> exact fun raw => ⟨_, fun _ => rfl, rfl, rfl, by simp⟩

theorem encode_build_primaryRows : ∀ r ∈ primaryRows, ∀ raw,
    r.entry.selects raw = true → encode (r.build raw) = raw := by
  simp only [primaryRows, List.forall_mem_append]
  exact ⟨⟨⟨encode_build_primaryRows1, encode_build_primaryRows2⟩, encode_build_primaryRows3⟩,
    encode_build_primaryRows4⟩

theorem encode_build_xRows : ∀ r ∈ xRows, ∀ raw,
    fieldPrimaryOpcode raw = 31 → r.entry.selects raw = true → encode (r.build raw) = raw := by
  simp only [xRows, List.forall_mem_append]
  exact ⟨⟨⟨⟨⟨encode_build_xRows1, encode_build_xRows2⟩, encode_build_xRows3⟩, encode_build_xRows4⟩,
    encode_build_xRows5⟩, encode_build_xRows6⟩

theorem encode_build_aRows : ∀ r ∈ aRows, ∀ raw,
    r.entry.selects raw = true → encode (r.build raw) = raw := by
  simp only [aRows, List.forall_mem_append]
  exact ⟨encode_build_aRows1, encode_build_aRows2⟩

/-- The row a lookup finds reads from the word the instruction that this word encodes. -/
theorem encode_build_of_consulted {raw : Word} {r : TableRow} (hr : IsConsulted defaultRows raw r)
    (hsel : r.entry.selects raw = true) : encode (r.build raw) = raw := by
  rcases hr with hp | ⟨hxl, hop⟩ | ⟨hx | hxfx, hop⟩ | ha
  · exact encode_build_primaryRows r hp raw hsel
  · exact encode_build_xlRows1 r hxl raw hop hsel
  · exact encode_build_xRows r hx raw hop hsel
  · exact encode_build_xfxRows1 r hxfx raw hop hsel
  · exact encode_build_aRows r ha raw hsel

theorem deliversExtraction_of_consulted {raw : Word} {r : TableRow} (hr : IsConsulted defaultRows raw r) :
    DeliversExtraction r := by
  rcases hr with hp | ⟨hxl, -⟩ | ⟨hx | hxfx, -⟩ | ha
  · exact deliversExtraction_primaryRows r hp
  all_goals
    apply deliversExtraction_secondaryRows
    simp_all [defaultRows]

/-- The rows and the generic decoder agree on every word (R164): what its instruction, if it has one, delivers is
`decode` of the word. -/
theorem serveDecode_eq (raw : Word) (s : State) : serveDecode raw s = deliver (decode defaultTables raw) s := by
  have hlookup := lookup_defaultTables raw
  unfold serveDecode decodeWord
  cases h : lookupRow TableRow.entry defaultRows raw with
  | none =>
    rw [h] at hlookup
    rw [decode_of_lookup_none hlookup]
    rfl
  | some r =>
    rw [h] at hlookup
    obtain ⟨hr, hsel⟩ := lookupRow_eq_some h
    obtain ⟨d, hexec, hformat, hraw, hd⟩ := deliversExtraction_of_consulted hr raw
    rw [encode_build_of_consulted hr hsel] at hraw
    have hdecode : decode defaultTables raw = d := by
      rw [decode_of_lookup_some hlookup, ← hformat, ← hraw]
      exact hd
    rw [hdecode]
    exact hexec s

/-! ## The statements about the ports -/

/-- Settles O31: the step serves the word by its instruction, which agrees with the generic decoder. -/
theorem decodeRequestAnswersDecode : Obligations.DecodeRequestAnswersDecode := by
  intro s raw rest hq
  exact (step_of_waiting hq).trans (serveDecode_eq raw _)

/-- Settles O32: the lookup reads the word of a record only, and `decode` keeps the word. -/
theorem nameRequestAnswersTheName : Obligations.NameRequestAnswersTheName := by
  intro s d rest hq
  rw [step_of_waiting hq]
  simp only [instructionName, decode_raw]
  rfl

/-- The four bytes of a word, most significant first, make up the word. -/
theorem wordOfBytes_bytesOfWord (w : Word) :
    wordOfBytes (w.extractLsb' 24 8) (w.extractLsb' 16 8) (w.extractLsb' 8 8) (w.extractLsb' 0 8) = w := by
  apply BitVec.eq_of_toNat_eq
  show (w.extractLsb' 24 8 ++ w.extractLsb' 16 8 ++ w.extractLsb' 8 8 ++ w.extractLsb' 0 8 :
    BitVec (8 + 8 + 8 + 8)).toNat = _
  simp only [toNat_append_add, toNat_extract]
  omega

theorem decodeBytes_bytesOfWord (w : Word) : decodeBytes (bytesOfWord w) =
    (decodeWord w).elim (.error (.unknownWord w)) fun i => .ok (i, []) := by
  rw [bytesOfWord, decodeBytes, wordOfBytes_bytesOfWord]
  cases decodeWord w <;> rfl

theorem decodeTableWord_eq (nbits w : Nat) :
    decodeTableWord nbits w = decodeWord (BitVec.ofNat 32 (w % 2 ^ nbits)) := by
  rw [decodeTableWord, decodeBytes_bytesOfWord]
  cases decodeWord (BitVec.ofNat 32 (w % 2 ^ nbits)) <;> rfl

theorem step_decode_of_instruction {s : State} {raw : Word} {rest : List Request} {i : Instr}
    (hq : s.requests = .decode raw :: rest) (hi : decodeWord raw = some i) :
    step s = exec i { s with requests := rest } := by
  rw [step_of_waiting hq, serve, serveDecode, hi]

/-- Settles O30: the word handed over is the word of its four bytes, and waits at the head of the queue. -/
theorem stepRunsTheDecodedInstruction : Obligations.StepRunsTheDecodedInstruction :=
  ⟨fun _ _ _ _ => step_decode_of_instruction, fun s nbits w _ hi =>
    step_decode_of_instruction (s.withFetchWord_requests nbits w) (decodeTableWord_eq nbits w ▸ hi)⟩

end Sys2Proof.Machine
end

section
/-! The memory port over histories: what one operation does to the TLBs and the counters, what the seeding loop of
`init` leaves, and what keeps the invariant. From these rules the statements of 10_state.md and 46_tlb_ops.md about
the counters, the seeds, the invariant and the resident page. -/

namespace Sys2Proof.Machine

variable {aw : Nat}

/-! ## Translations -/

theorem translate_of_hit {v : BitVec aw} {f : Bool} {m : MemorySystem aw}
    (h : ((m.tlb f).get (tlbIndex v)).hits v = true) :
    translate v f m = (((m.tlb f).get (tlbIndex v)).paddrBase ||| pageOffset v, countHit m) := by
  rcases translate_cases v f m with ⟨-, he⟩ | ⟨hmiss, -⟩
  · exact he
  · rw [h] at hmiss; cases hmiss

theorem translate_of_miss {v : BitVec aw} {f : Bool} {m : MemorySystem aw}
    (h : ((m.tlb f).get (tlbIndex v)).hits v = false) :
    translate v f m = (v, (countMiss m).withTlb f (tlbInsert (m.tlb f) v v missFlags)) := by
  rcases translate_cases v f m with ⟨hhit, -⟩ | ⟨-, he⟩
  · rw [h] at hhit; cases hhit
  · exact he

/-- A translation adds one to exactly one counter. -/
theorem translate_counters (v : BitVec aw) (f : Bool) (m : MemorySystem aw) :
    ((translate v f m).2.tlbHits = m.tlbHits + 1 ∧ (translate v f m).2.tlbMisses = m.tlbMisses) ∨
      ((translate v f m).2.tlbHits = m.tlbHits ∧ (translate v f m).2.tlbMisses = m.tlbMisses + 1) := by
  rcases translate_cases v f m with ⟨-, h⟩ | ⟨-, h⟩
  · left; simp [h]
  · right; simp [h]

theorem hits_iff {e : TlbEntry aw} {v : BitVec aw} :
    e.hits v = true ↔ e.valid = true ∧ e.vaddrTag = pageBase v := by
  simp [TlbEntry.hits]

/-- A hit gives the address itself where R32 holds of the TLB: the entry maps its page to itself. -/
theorem translate_fst_of_tlbOk {m : MemorySystem aw} (v : BitVec aw) {f : Bool} (h : TlbOk (m.tlb f)) :
    (translate v f m).1 = v := by
  rcases translate_cases v f m with ⟨hhit, he⟩ | ⟨-, he⟩
  · obtain ⟨hvalid, htag⟩ := hits_iff.mp hhit
    obtain ⟨-, -, -, hbase⟩ := h (tlbIndex v) hvalid
    rw [he, hbase, htag, pageBase_or_pageOffset]
  · rw [he]

theorem translate_eq_of_inv {m : MemorySystem aw} (h : m.Inv) (v : BitVec aw) (f : Bool) :
    translate v f m = (v, (translate v f m).2) :=
  Prod.ext (translate_fst_of_tlbOk v (h.tlbOk f)) rfl

/-- Settles O43: a hit in a TLB of identity mappings answers as a miss does. -/
theorem translateReturnsItsArgument : Obligations.TranslateReturnsItsArgument := by
  intro aw v f m hinv hlive
  refine ⟨(translate v f m).2, ?_⟩
  rw [MemorySystem.perform, translate_eq_of_inv hinv, whenLive_of_live hlive]

/-- After a translation the entry at its index hits exactly the addresses of its page. -/
theorem hits_after_translate {v w : BitVec aw} (f : Bool) (m : MemorySystem aw) (h : tlbIndex v = tlbIndex w) :
    (((translate v f m).2.tlb f).get (tlbIndex w)).hits w = decide (pageBase v = pageBase w) := by
  obtain ⟨hvalid, htag⟩ := translate_resident v f m
  rw [h] at hvalid htag
  rw [TlbEntry.hits, hvalid, htag, Bool.true_and]
  rfl

/-- A second translation of a page is a hit (R510 (b), (c)). -/
theorem tlbHits_of_resident {v w : BitVec aw} (f : Bool) (m : MemorySystem aw) (h : pageBase v = pageBase w) :
    (translate w f (translate v f m).2).2.tlbHits = (translate v f m).2.tlbHits + 1 := by
  rw [translate_of_hit (by simp [hits_after_translate f m (tlbIndex_congr h), h]), countHit_tlbHits]

/-- A translation of another page with the same index overwrote the entry, so the first page is missed (R510 (d)). -/
theorem tlbMisses_of_evicted {v w : BitVec aw} (f : Bool) (m : MemorySystem aw) (hi : tlbIndex v = tlbIndex w)
    (hp : pageBase v ≠ pageBase w) :
    (translate w f (translate v f m).2).2.tlbMisses = (translate v f m).2.tlbMisses + 1 := by
  rw [translate_of_miss (by simp [hits_after_translate f m hi, hp]), withTlb_tlbMisses, countMiss_tlbMisses]

theorem tlb_flushTlbs (m : MemorySystem aw) (f : Bool) :
    (flushTlbs m).tlb f = (m.tlb f).map TlbEntry.invalidate := by
  cases f <;> rfl

theorem tlbMisses_after_flush (v : BitVec aw) (f : Bool) (m : MemorySystem aw) :
    (translate v f (flushTlbs m)).2.tlbMisses = m.tlbMisses + 1 := by
  have hmiss : (((flushTlbs m).tlb f).get (tlbIndex v)).hits v = false := by
    rw [tlb_flushTlbs, get_map]; rfl
  rw [translate_of_miss hmiss, withTlb_tlbMisses, countMiss_tlbMisses, flushTlbs_tlbMisses]

/-! ## What one operation does -/

/-- Everything an operation within a life can leave: a translation with RAM perhaps changed (R502, R530), a flush, a
destruction, or the memory system as it was (R43). -/
inductive Leaves (m : MemorySystem aw) : MemOp aw → MemorySystem aw → Prop
  | translation {op v f} (ram : Memory) (h : translationOf op = some (v, f)) :
      Leaves m op { (translate v f m).2 with ram := ram }
  | flush : Leaves m .flush (flushTlbs m)
  | destroy : Leaves m .destroy (destroyInstance m)
  | readTlbHits : Leaves m .readTlbHits m
  | readTlbMisses : Leaves m .readTlbMisses m

theorem leaves_of_read {m : MemorySystem aw} {op : MemOp aw} {v : BitVec aw} (h : translationOf op = some (v, false))
    (n : Nat) : Leaves m op (accessRead n v m).2 := by
  rw [accessRead_eq]
  exact .translation _ h

theorem leaves_of_write {m : MemorySystem aw} {op : MemOp aw} {v : BitVec aw} (h : translationOf op = some (v, false))
    (n : Nat) (x : BitVec (8 * n)) : Leaves m op (accessWrite n v x m) := by
  rw [accessWrite_eq]
  exact .translation _ h

theorem leaves_of_perform {op : MemOp aw} {m m' : MemorySystem aw} {r : MemResult aw} (hop : NeedsLive op)
    (h : m.perform op = .ok (r, m')) : Leaves m op m' := by
  have left {p : MemResult aw × MemorySystem aw} (hl : Leaves m op p.2) (hp : whenLive m p = .ok (r, m')) :
      Leaves m op m' := by
    obtain ⟨-, rfl⟩ := whenLive_eq_ok.mp hp
    exact hl
  cases op with
  | init n => exact absurd rfl (hop.1 n)
  | initAllocationFailure n => exact absurd rfl (hop.2 n)
  | destroy => exact left .destroy h
  | translate v f => exact left (.translation _ rfl) h
  | flush => exact left .flush h
  | read8 v => exact left (leaves_of_read rfl 1) h
  | read16 v => exact left (leaves_of_read rfl 2) h
  | read32 v => exact left (leaves_of_read rfl 4) h
  | read64 v => exact left (leaves_of_read rfl 8) h
  | write8 v x => exact left (leaves_of_write rfl 1 x) h
  | write16 v x => exact left (leaves_of_write rfl 2 x) h
  | write32 v x => exact left (leaves_of_write rfl 4 x) h
  | write64 v x => exact left (leaves_of_write rfl 8 x) h
  | readTlbHits => exact left .readTlbHits h
  | readTlbMisses => exact left .readTlbMisses h

theorem needsLive_of_changesLife {op : MemOp aw} (h : changesLife op = false) : NeedsLive op :=
  ⟨fun _ he => by simp [he, changesLife] at h, fun _ he => by simp [he, changesLife] at h⟩

theorem needsLive_of_translationOf {op : MemOp aw} (h : translationOf op ≠ none) : NeedsLive op :=
  ⟨fun _ he => h (he ▸ rfl), fun _ he => h (he ▸ rfl)⟩

theorem performAll_cons_eq_ok {op : MemOp aw} {ops : List (MemOp aw)} {m m' : MemorySystem aw}
    {rs : List (MemResult aw)} (h : MemorySystem.performAll (op :: ops) m = .ok (rs, m')) :
    ∃ r n rs', m.perform op = .ok (r, n) ∧ MemorySystem.performAll ops n = .ok (rs', m') ∧ rs = r :: rs' := by
  rw [MemorySystem.performAll] at h
  split at h
  next => cases h
  next r n hp =>
    split at h
    next => cases h
    next rs' n' hps =>
      cases h
      exact ⟨r, n, rs', hp, hps, rfl⟩

/-! ## The counters -/

/-- The two counters together grow by one for a translation and stay for every other operation, and neither goes
down (R510 (a), (f)). -/
theorem Leaves.counters {op : MemOp aw} {m m' : MemorySystem aw} (h : Leaves m op m') :
    m'.tlbHits + m'.tlbMisses = m.tlbHits + m.tlbMisses + (if (translationOf op).isSome then 1 else 0) ∧
      m.tlbHits ≤ m'.tlbHits ∧ m.tlbMisses ≤ m'.tlbMisses := by
  cases h with
  | @translation _ v f ram ht =>
    have hcount := translate_counters v f m
    rw [ht, if_pos (by rfl)]
    show (translate v f m).2.tlbHits + (translate v f m).2.tlbMisses = _ ∧
      _ ≤ (translate v f m).2.tlbHits ∧ _ ≤ (translate v f m).2.tlbMisses
    omega
  | _ => exact ⟨rfl, le_rfl, le_rfl⟩

/-- Settles O58, by induction on the history. -/
theorem countersCountTheTranslations : Obligations.CountersCountTheTranslations := by
  intro aw ops
  induction ops with
  | nil =>
    intro m m' rs _ h
    cases h
    exact ⟨rfl, le_rfl, le_rfl⟩
  | cons op ops ih =>
    intro m m' rs hlife h
    obtain ⟨r, n, rs', hp, hps, -⟩ := performAll_cons_eq_ok h
    rw [List.forall_mem_cons] at hlife
    obtain ⟨hop, hops⟩ := hlife
    have first := (leaves_of_perform (needsLive_of_changesLife hop) hp).counters
    have later := ih n m' rs' hops hps
    rw [List.filter_cons]
    by_cases ht : (translationOf op).isSome = true
    · rw [if_pos ht] at first ⊢
      rw [List.length_cons]
      omega
    · rw [if_neg ht] at first ⊢
      omega

/-- Settles O44: the laws of one translation after another come from what is resident between them, the laws of the
counters from what an operation can leave. -/
theorem translationLaws : Obligations.TranslationLaws := by
  intro aw v w f m
  refine ⟨fun op r m' ht hp => ?_, fun op hop r m' hp => ?_, tlbHits_of_resident f m rfl, tlbHits_of_resident f m,
    fun hi hp => tlbMisses_of_evicted f _ hi.symm hp.symm, tlbMisses_after_flush v f m,
    fun op r m' hinit hfail hp => (leaves_of_perform ⟨hinit, hfail⟩ hp).counters.2,
    fun hlive => ⟨whenLive_of_live hlive _, whenLive_of_live hlive _⟩⟩
  · have hsum := (leaves_of_perform (needsLive_of_translationOf ht) hp).counters.1
    rwa [if_pos (Option.isSome_iff_ne_none.mpr ht)] at hsum
  · have hfree : NeedsLive op ∧ translationOf op = none := by
      simp only [List.mem_cons, List.not_mem_nil, or_false] at hop
      rcases hop with rfl | rfl | rfl | rfl <;> exact ⟨⟨nofun, nofun⟩, rfl⟩
    have hcount := (leaves_of_perform hfree.1 hp).counters
    rw [hfree.2] at hcount
    simp only [Option.isSome_none, Bool.false_eq_true, if_false] at hcount
    omega

/-! ## The seeds (10_state.md R35, 70_reset_and_hazards.md R700) -/

theorem pageBase_eq_shift (v : BitVec aw) : pageBase v = v >>> 12 <<< 12 := by
  ext i hi
  have hmask : (BitVec.ofNat aw Config.pageMask)[i] = decide (i < 12) := by
    rw [← BitVec.getLsbD_eq_getElem, BitVec.getLsbD_ofNat, decide_eq_true hi, Bool.true_and]
    exact Nat.testBit_two_pow_sub_one 12 i
  rw [pageBase, BitVec.getElem_and, BitVec.getElem_not, hmask]
  by_cases h : i < 12
  · simp [h]
  · simp [h, Nat.add_sub_cancel' (Nat.le_of_not_lt h), BitVec.getLsbD_eq_getElem hi]

/-- A page number of the seeds fits the address width. -/
theorem toNat_pageAddress (haw : 16 ≤ aw) {n : Nat} (hn : n < 16) : (pageAddress aw n).toNat = n * 4096 := by
  have hpow : 2 ^ 16 ≤ 2 ^ aw := Nat.pow_le_pow_right (by omega) haw
  rw [pageAddress, BitVec.toNat_ofNat, Config.pageShift, Nat.shiftLeft_eq]
  exact Nat.mod_eq_of_lt (by omega)

theorem tlbIndex_pageAddress (haw : 16 ≤ aw) {n : Nat} (hn : n < 16) : (tlbIndex (pageAddress aw n)).val = n := by
  rw [tlbIndex_val, toNat_pageAddress haw hn]
  omega

theorem pageBase_pageAddress (haw : 16 ≤ aw) {n : Nat} (hn : n < 16) :
    pageBase (pageAddress aw n) = pageAddress aw n := by
  have hlt := (pageAddress aw n).isLt
  apply BitVec.eq_of_toNat_eq
  rw [pageBase_eq_shift, BitVec.toNat_shiftLeft, BitVec.toNat_ushiftRight, Nat.shiftLeft_eq,
    Nat.shiftRight_eq_div_pow]
  rw [toNat_pageAddress haw hn] at hlt ⊢
  rw [Nat.mul_div_cancel _ (by decide), Nat.mod_eq_of_lt hlt]

/-- The first `n` rounds of the seeding loop fill the first `n` entries. -/
theorem get_seedLoop_rounds (haw : 16 ≤ aw) (flags : BitVec 3) (i : Fin Config.tlbSize) {n : Nat} (hn : n ≤ 16) :
    ((List.range n).foldl (fun t k => tlbInsert t (pageAddress aw k) (pageAddress aw k) flags)
      (Vector.replicate Config.tlbSize (TlbEntry.invalid aw))).get i =
        if i.val < n then TlbEntry.seed aw flags i.val else TlbEntry.invalid aw := by
  induction n with
  | zero => simp [Vector.get_eq_getElem]
  | succ n ih =>
    have hidx := tlbIndex_pageAddress haw (Nat.lt_of_succ_le hn)
    rw [List.range_succ, List.foldl_append, List.foldl_cons, List.foldl_nil]
    by_cases hi : i = tlbIndex (pageAddress aw n)
    · rw [hi, get_tlbInsert_same, hidx, if_pos (Nat.lt_succ_self n), pageBase_pageAddress haw (Nat.lt_of_succ_le hn)]
      rfl
    · have hne : i.val ≠ n := fun he => hi (Fin.ext (he.trans hidx.symm))
      rw [get_tlbInsert_ne _ _ _ _ hi, ih (Nat.le_of_succ_le hn)]
      simp only [Nat.lt_succ_iff, Nat.le_iff_lt_or_eq, hne, or_false]

theorem get_seedLoop (haw : 16 ≤ aw) (flags : BitVec 3) (i : Fin Config.tlbSize) :
    (seedLoop aw flags).get i = if i.val < 16 then TlbEntry.seed aw flags i.val else TlbEntry.invalid aw :=
  get_seedLoop_rounds haw flags i le_rfl

theorem seedLoop_eq_seededTlb (haw : 16 ≤ aw) (flags : BitVec 3) : seedLoop aw flags = seededTlb aw flags := by
  apply Vector.ext
  intro i hi
  have hget := get_seedLoop haw flags ⟨i, hi⟩
  rw [Vector.get_eq_getElem] at hget
  rw [hget, seededTlb, Vector.getElem_ofFn]
  rfl

/-- What `init` computes by its loop is the table of R35. -/
theorem initInstance_eq_afterInit (haw : 16 ≤ aw) (size : BitVec aw) :
    initInstance size = MemorySystem.afterInit aw size.toNat := by
  rw [initInstance, seedLoop_eq_seededTlb haw, seedLoop_eq_seededTlb haw]
  rfl

/-- Settles O35: `init` ignores the state it meets, and its seeding loop fills the first 16 entries. -/
theorem initGivesTheResetTable : Obligations.InitGivesTheResetTable := by
  intro aw size m haw
  have h16 : 16 ≤ aw := by omega
  have entry (flags : BitVec 3) (i : Fin 64) : (seedLoop aw flags).get i =
      if i.val < 16 then
        { vaddrTag := BitVec.ofNat aw (i.val * 4096), paddrBase := BitVec.ofNat aw (i.val * 4096),
          permissionFlags := flags, valid := true }
      else { vaddrTag := 0, paddrBase := 0, permissionFlags := 0, valid := false } := by
    rw [get_seedLoop h16, TlbEntry.seed, Config.pageShift, Nat.shiftLeft_eq]
    rfl
  exact ⟨initInstance size, rfl, rfl, fun _ => rfl, entry instructionSeedFlags, entry dataSeedFlags, rfl, rfl, rfl⟩

theorem reset_mem_eq_initInstance : State.reset.mem = initInstance Config.resetRamSize :=
  (initInstance_eq_afterInit (by decide) _).symm

/-- Settles O36: the loop of `init` leaves the seeds that `State.reset` is written with. -/
theorem resetIsInit : Obligations.ResetIsInit := by
  refine ⟨fun m => ?_, rfl, rfl⟩
  rw [reset_mem_eq_initInstance]
  rfl

/-! ## The invariant -/

theorem inv_initInstance (size : BitVec aw) : (initInstance size).Inv where
  itlbOk := tlbOk_seedLoop _
  dtlbOk := tlbOk_seedLoop _
  ramCanonical := rfl
  ramBelow := rfl
  sizeBelow := size.isLt

theorem inv_initAllocationFails : (initAllocationFails : MemorySystem aw).Inv where
  itlbOk := tlbOk_replicate_invalid
  dtlbOk := tlbOk_replicate_invalid
  ramCanonical := rfl
  ramBelow := rfl
  sizeBelow := Nat.two_pow_pos aw

theorem inv_destroyInstance {m : MemorySystem aw} (h : m.Inv) : (destroyInstance m).Inv :=
  inv_of_sameData h rfl rfl h.tlbOk

theorem inv_flushTlbs {m : MemorySystem aw} (h : m.Inv) : (flushTlbs m).Inv :=
  inv_of_sameData h rfl rfl fun f => tlb_flushTlbs m f ▸ tlbOk_invalidate _

/-- Every operation of the memory port keeps the invariant (R32). -/
theorem inv_perform {op : MemOp aw} {m m' : MemorySystem aw} {r : MemResult aw} (hinv : m.Inv)
    (h : m.perform op = .ok (r, m')) : m'.Inv := by
  have kept {p : MemResult aw × MemorySystem aw} (hi : p.2.Inv) (hp : whenLive m p = .ok (r, m')) : m'.Inv := by
    obtain ⟨-, rfl⟩ := whenLive_eq_ok.mp hp
    exact hi
  cases op with
  | init n => cases h; exact inv_initInstance n
  | initAllocationFailure n => cases h; exact inv_initAllocationFails
  | destroy => exact kept (inv_destroyInstance hinv) h
  | translate v f => exact kept (inv_translate hinv v f) h
  | flush => exact kept (inv_flushTlbs hinv) h
  | read8 v => exact kept (inv_accessRead hinv 1 v) h
  | read16 v => exact kept (inv_accessRead hinv 2 v) h
  | read32 v => exact kept (inv_accessRead hinv 4 v) h
  | read64 v => exact kept (inv_accessRead hinv 8 v) h
  | write8 v x => exact kept (inv_accessWrite hinv 1 v x) h
  | write16 v x => exact kept (inv_accessWrite hinv 2 v x) h
  | write32 v x => exact kept (inv_accessWrite hinv 4 v x) h
  | write64 v x => exact kept (inv_accessWrite hinv 8 v x) h
  | readTlbHits => exact kept hinv h
  | readTlbMisses => exact kept hinv h

/-- Settles O52: the reset machine is a machine after `init`, whose seeds are identity mappings. -/
theorem invariantHoldsAtReset : Obligations.InvariantHoldsAtReset := by
  unfold Obligations.InvariantHoldsAtReset State.Inv
  rw [reset_mem_eq_initInstance]
  exact inv_initInstance _

/-- A decoder request leaves the memory system as it is. -/
theorem mem_of_step_decoderRequest {s t : State} {a : Request} {rest : List Request} (ha : IsDecoderRequest a)
    (hq : s.requests = a :: rest) (h : step s = .next t) : t.mem = s.mem := by
  obtain ⟨x, hx⟩ := step_decoderRequest ha
  cases (hx s rest hq).symm.trans h
  rfl

/-- Settles O53: only a memory operation changes the memory system, and each keeps the invariant. -/
theorem stepKeepsTheInvariant : Obligations.StepKeepsTheInvariant := by
  intro s t hinv h
  unfold State.Inv at hinv ⊢
  cases hq : s.requests with
  | nil =>
    cases (step_of_idle hq).symm.trans h
    exact hinv
  | cons a rest =>
    cases a with
    | decode raw => rwa [mem_of_step_decoderRequest (.inl ⟨raw, rfl⟩) hq h]
    | instructionName d => rwa [mem_of_step_decoderRequest (.inr ⟨d, rfl⟩) hq h]
    | mem op =>
      cases hp : s.mem.perform op with
      | ok p =>
        cases (step_mem_of_ok hq hp).symm.trans h
        exact inv_perform hinv hp
      | error e => cases (step_mem_of_error hq hp).symm.trans h
    | overlapping op op' => cases (step_overlapping hq).symm.trans h

/-! ## Residency -/

/-- The page that the entry at an index of a TLB holds, if it is valid. -/
def pageAt (m : MemorySystem aw) (f : Bool) (i : Fin Config.tlbSize) : Option (BitVec aw) :=
  if ((m.tlb f).get i).valid = true then some ((m.tlb f).get i).vaddrTag else none

theorem pageAt_congr {m m' : MemorySystem aw} {f : Bool} {i : Fin Config.tlbSize}
    (h : (m'.tlb f).get i = (m.tlb f).get i) : pageAt m' f i = pageAt m f i := by
  rw [pageAt, h, pageAt]

theorem pageAt_translate (v : BitVec aw) (g f : Bool) (m : MemorySystem aw) (i : Fin Config.tlbSize) :
    pageAt (translate v g m).2 f i = if g = f ∧ tlbIndex v = i then some (pageBase v) else pageAt m f i := by
  split_ifs with h
  · obtain ⟨rfl, rfl⟩ := h
    obtain ⟨hvalid, htag⟩ := translate_resident v g m
    rw [pageAt, if_pos hvalid, htag]
  · apply pageAt_congr
    by_cases hg : g = f
    · subst hg
      exact translate_get_ne v g m fun hi => h ⟨rfl, hi.symm⟩
    · obtain rfl : f = !g := Bool.eq_not_of_ne (Ne.symm hg)
      rw [translate_other_tlb]

theorem pageAt_flushTlbs (m : MemorySystem aw) (f : Bool) (i : Fin Config.tlbSize) :
    pageAt (flushTlbs m) f i = none := by
  rw [pageAt, tlb_flushTlbs, get_map]
  rfl

theorem pageAt_initInstance (haw : 16 ≤ aw) (size : BitVec aw) (f : Bool) (i : Fin Config.tlbSize) :
    pageAt (initInstance size) f i = seededPage i := by
  have seeded (flags : BitVec 3) (h : (initInstance size).tlb f = seedLoop aw flags) :
      pageAt (initInstance size) f i = seededPage i := by
    rw [pageAt, h, get_seedLoop haw, seededPage, Config.seedCount]
    by_cases hi : i.val < 16
    · rw [if_pos hi, if_pos hi, if_pos (by rfl), TlbEntry.seed, Config.pageShift]
    · rw [if_neg hi, if_neg hi]
      rfl
  cases f with
  | true => exact seeded instructionSeedFlags rfl
  | false => exact seeded dataSeedFlags rfl

/-- A history's page is found operation by operation. -/
theorem residentPage_cons (f : Bool) (i : Fin Config.tlbSize) (page : Option (BitVec aw)) (op : MemOp aw)
    (ops : List (MemOp aw)) :
    residentPage f i page (op :: ops) = residentPage f i (residentPage f i page [op]) ops := by
  simp only [residentPage]
  split_ifs
  · rfl
  · cases translationOf op with
    | none => rfl
    | some p => dsimp only; split_ifs <;> rfl

theorem residentPage_translation {f : Bool} {i : Fin Config.tlbSize} {page : Option (BitVec aw)} {op : MemOp aw}
    {v : BitVec aw} {g : Bool} (h : translationOf op = some (v, g)) :
    residentPage f i page [op] = if g = f ∧ tlbIndex v = i then some (pageBase v) else page := by
  have hflush : op ≠ .flush := by
    rintro rfl
    cases h
  simp only [residentPage, if_neg hflush, h]

/-- One operation leaves at an index the page that its history of one names (R507). -/
theorem Leaves.pageAt_eq {op : MemOp aw} {m m' : MemorySystem aw} (h : Leaves m op m') (f : Bool)
    (i : Fin Config.tlbSize) : pageAt m' f i = residentPage f i (pageAt m f i) [op] := by
  cases h with
  | @translation _ v g ram ht =>
    rw [residentPage_translation ht, ← pageAt_translate]
    rfl
  | flush => exact pageAt_flushTlbs m f i
  | destroy => rfl
  | readTlbHits => rfl
  | readTlbMisses => rfl

theorem pageAt_performAll {f : Bool} {i : Fin Config.tlbSize} {ops : List (MemOp aw)} :
    ∀ {m m' : MemorySystem aw} {rs : List (MemResult aw)}, (∀ op ∈ ops, changesLife op = false) →
      MemorySystem.performAll ops m = .ok (rs, m') → pageAt m' f i = residentPage f i (pageAt m f i) ops := by
  induction ops with
  | nil =>
    intro m m' rs _ h
    cases h
    rfl
  | cons op ops ih =>
    intro m m' rs hlife h
    obtain ⟨r, n, rs', hp, hps, -⟩ := performAll_cons_eq_ok h
    rw [List.forall_mem_cons] at hlife
    obtain ⟨hop, hops⟩ := hlife
    have first := (leaves_of_perform (needsLive_of_changesLife hop) hp).pageAt_eq f i
    rw [residentPage_cons, ← first]
    exact ih hops hps

/-- Settles O59: `init` leaves the seeds, and every operation after it the page that its history names. -/
theorem lastTranslatedPageIsResident : Obligations.LastTranslatedPageIsResident := by
  intro aw size ops m m' rs haw hlife h f i
  obtain ⟨r, n, rs', hp, hps, -⟩ := performAll_cons_eq_ok h
  cases hp
  rw [← pageAt_initInstance (by omega) size f i]
  exact pageAt_performAll hlife hps

end Sys2Proof.Machine
end

section
/-! Two memory systems compared: RAM in canonical form is determined by what it reads as, and two runs of the memory
port stay side by side under every relation that its operations keep. From these rules the statements of 10_state.md
R33 about what a history can show. -/

namespace Sys2Proof.Machine

variable {aw : Nat}

/-! ## RAM in canonical form -/

theorem wfFrom_cons {lo k : Nat} {b : Byte} {m : Memory} :
    Memory.wfFrom lo ((k, b) :: m) = true ↔ lo ≤ k ∧ b ≠ Config.unlistedByte ∧ Memory.wfFrom (k + 1) m = true := by
  simp [Memory.wfFrom, and_assoc]

theorem readByte_cons_self (k : Nat) (b : Byte) (m : Memory) : Memory.readByte ((k, b) :: m) k = b := by
  simp [Memory.readByte]

/-- Where a list in canonical form from `lo` on reads as a byte that can be listed, the offset is not below `lo`. -/
theorem le_of_readByte_eq {m : Memory} {lo k : Nat} {b : Byte} (hm : Memory.wfFrom lo m = true)
    (hb : b ≠ Config.unlistedByte) (h : Memory.readByte m k = b) : lo ≤ k := by
  by_contra hlt
  exact hb (h ▸ readByte_of_wfFrom_lt hm (by omega))

/-- Lists in canonical form that read the same are equal: their first offsets are, because a listed byte is never the
byte that an unlisted offset reads as, and then so are the rests. -/
theorem eq_of_readByte_eq {m : Memory} : ∀ {m' : Memory} {lo lo' : Nat}, Memory.wfFrom lo m = true →
    Memory.wfFrom lo' m' = true → (∀ a, Memory.readByte m a = Memory.readByte m' a) → m = m' := by
  induction m with
  | nil =>
    intro m' lo lo' _ hm' h
    cases m' with
    | nil => rfl
    | cons c rest' =>
      obtain ⟨k', b'⟩ := c
      obtain ⟨-, hb', -⟩ := wfFrom_cons.mp hm'
      exact absurd ((h k').trans (readByte_cons_self k' b' rest')).symm hb'
  | cons c rest ih =>
    obtain ⟨k, b⟩ := c
    intro m' lo lo' hm hm' h
    obtain ⟨-, hb, hrest⟩ := wfFrom_cons.mp hm
    have hk := (h k).symm.trans (readByte_cons_self k b rest)
    cases m' with
    | nil => exact absurd hk.symm hb
    | cons c rest' =>
      obtain ⟨k', b'⟩ := c
      obtain ⟨-, hb', hrest'⟩ := wfFrom_cons.mp hm'
      have hk' := (h k').trans (readByte_cons_self k' b' rest')
      have hle : k' ≤ k := le_of_readByte_eq (wfFrom_cons.mpr ⟨le_rfl, hb', hrest'⟩) hb hk
      have hge : k ≤ k' := le_of_readByte_eq (wfFrom_cons.mpr ⟨le_rfl, hb, hrest⟩) hb' hk'
      obtain rfl : k = k' := Nat.le_antisymm hge hle
      obtain rfl : b = b' := (readByte_cons_self k b rest).symm.trans hk'
      congr 1
      refine ih hrest hrest' fun a => ?_
      by_cases ha : k = a
      · subst ha
        rw [readByte_of_wfFrom_lt hrest (Nat.lt_succ_self k), readByte_of_wfFrom_lt hrest' (Nat.lt_succ_self k)]
      · simpa only [Memory.readByte, if_neg ha] using h a

/-- Settles O54, from the canonical form that starts at offset 0. -/
theorem canonicalRamIsDetermined : Obligations.CanonicalRamIsDetermined := fun _ _ => eq_of_readByte_eq

/-! ## Two runs side by side -/

/-- Two outcomes on the memory port: refused for the same reason, or performed with related answers and related
memory systems. -/
inductive OutcomesAlike {α : Type} (R : MemorySystem aw → MemorySystem aw → Prop) (Q : α → α → Prop) :
    Except Refusal (α × MemorySystem aw) → Except Refusal (α × MemorySystem aw) → Prop
  | refused (e) : OutcomesAlike R Q (.error e) (.error e)
  | performed {r r' n n'} (answers : Q r r') (systems : R n n') : OutcomesAlike R Q (.ok (r, n)) (.ok (r', n'))

/-- Two lists with one answer for each operation, related operation by operation. -/
inductive AnswersAlike (Q : MemOp aw → MemResult aw → MemResult aw → Prop) :
    List (MemOp aw) → List (MemResult aw) → List (MemResult aw) → Prop
  | nil : AnswersAlike Q [] [] []
  | cons {op r r' ops rs rs'} (first : Q op r r') (later : AnswersAlike Q ops rs rs') :
      AnswersAlike Q (op :: ops) (r :: rs) (r' :: rs')

theorem AnswersAlike.length_eq {Q : MemOp aw → MemResult aw → MemResult aw → Prop} {ops : List (MemOp aw)}
    {rs rs' : List (MemResult aw)} (h : AnswersAlike Q ops rs rs') :
    rs.length = ops.length ∧ rs'.length = ops.length := by
  induction h with
  | nil => exact ⟨rfl, rfl⟩
  | cons _ _ ih => simp [ih]

theorem AnswersAlike.getElem?_eq {P : MemOp aw → Prop} {ops : List (MemOp aw)} {rs rs' : List (MemResult aw)}
    (h : AnswersAlike (fun op r r' => P op → r = r') ops rs rs') {k : Nat} {op : MemOp aw} (hk : ops[k]? = some op)
    (hop : P op) : rs[k]? = rs'[k]? := by
  induction h generalizing k with
  | nil => rfl
  | cons first _ ih =>
    cases k with
    | zero =>
      obtain rfl : _ = op := Option.some.inj hk
      exact congrArg some (first hop)
    | succ k => exact ih hk

theorem AnswersAlike.eq {ops : List (MemOp aw)} {rs rs' : List (MemResult aw)}
    (h : AnswersAlike (fun _ r r' => r = r') ops rs rs') : rs = rs' := by
  induction h with
  | nil => rfl
  | cons first _ ih => rw [first, ih]

/-- A relation between memory systems that every operation of the port keeps, with answers related by `Q`: what has
to be known of the translator and the accessors for two runs to stay side by side. -/
structure KeptByThePort (R : MemorySystem aw → MemorySystem aw → Prop)
    (Q : MemOp aw → MemResult aw → MemResult aw → Prop) : Prop where
  life {m m'} : R m m' → m.life = m'.life
  init (n) : R (initInstance n) (initInstance n)
  initFails : R initAllocationFails initAllocationFails
  destroy {m m'} : R m m' → R (destroyInstance m) (destroyInstance m')
  flush {m m'} : R m m' → R (flushTlbs m) (flushTlbs m')
  translate {m m'} (v f) : R m m' → (translate v f m).1 = (translate v f m').1 ∧
    R (translate v f m).2 (translate v f m').2
  read {m m'} (n v) : R m m' → (accessRead n v m).1 = (accessRead n v m').1 ∧
    R (accessRead n v m).2 (accessRead n v m').2
  write {m m'} (n v x) : R m m' → R (accessWrite n v x m) (accessWrite n v x m')
  sameAnswer (op r) : Q op r r
  counters {m m'} : R m m' → Q .readTlbHits (.count m.tlbHits) (.count m'.tlbHits) ∧
    Q .readTlbMisses (.count m.tlbMisses) (.count m'.tlbMisses)

section

variable {R : MemorySystem aw → MemorySystem aw → Prop} {Q : MemOp aw → MemResult aw → MemResult aw → Prop}

theorem OutcomesAlike.error_iff {α : Type} {P : α → α → Prop} {x y : Except Refusal (α × MemorySystem aw)}
    (h : OutcomesAlike R P x y) (e : Refusal) : x = .error e ↔ y = .error e := by
  cases h with
  | refused => exact Iff.rfl
  | performed => exact ⟨nofun, nofun⟩

theorem OutcomesAlike.of_ok {α : Type} {P : α → α → Prop} {r r' : α} {n n' : MemorySystem aw}
    {x y : Except Refusal (α × MemorySystem aw)} (h : OutcomesAlike R P x y) (hx : x = .ok (r, n))
    (hy : y = .ok (r', n')) : P r r' ∧ R n n' := by
  cases h with
  | refused => cases hx
  | performed hanswer hrel =>
    cases hx
    cases hy
    exact ⟨hanswer, hrel⟩

theorem whenLive_alike {α : Type} {P : α → α → Prop} {m m' n n' : MemorySystem aw} {r r' : α}
    (hlife : m.life = m'.life) (hanswer : P r r') (hrel : R n n') :
    OutcomesAlike R P (whenLive m (r, n)) (whenLive m' (r', n')) := by
  by_cases h : m.life = .live
  · rw [whenLive_of_live h, whenLive_of_live (hlife ▸ h)]
    exact .performed hanswer hrel
  · rw [whenLive_of_not_live h, whenLive_of_not_live (hlife ▸ h), hlife]
    exact .refused _

theorem KeptByThePort.perform (hR : KeptByThePort R Q) (op : MemOp aw) {m m' : MemorySystem aw} (h : R m m') :
    OutcomesAlike R (Q op) (m.perform op) (m'.perform op) := by
  have same {r r' : MemResult aw} {n n' : MemorySystem aw} (hr : r = r') (hn : R n n') :
      OutcomesAlike R (Q op) (whenLive m (r, n)) (whenLive m' (r', n')) :=
    whenLive_alike (hR.life h) (hr ▸ hR.sameAnswer op r) hn
  cases op with
  | init n => exact .performed (hR.sameAnswer _ _) (hR.init n)
  | initAllocationFailure n => exact .performed (hR.sameAnswer _ _) hR.initFails
  | destroy => exact same rfl (hR.destroy h)
  | translate v f => exact same (congrArg _ (hR.translate v f h).1) (hR.translate v f h).2
  | flush => exact same rfl (hR.flush h)
  | read8 v => exact same (congrArg MemResult.value8 (hR.read 1 v h).1) (hR.read 1 v h).2
  | read16 v => exact same (congrArg MemResult.value16 (hR.read 2 v h).1) (hR.read 2 v h).2
  | read32 v => exact same (congrArg MemResult.value32 (hR.read 4 v h).1) (hR.read 4 v h).2
  | read64 v => exact same (congrArg MemResult.value64 (hR.read 8 v h).1) (hR.read 8 v h).2
  | write8 v x => exact same rfl (hR.write 1 v x h)
  | write16 v x => exact same rfl (hR.write 2 v x h)
  | write32 v x => exact same rfl (hR.write 4 v x h)
  | write64 v x => exact same rfl (hR.write 8 v x h)
  | readTlbHits => exact whenLive_alike (hR.life h) (hR.counters h).1 h
  | readTlbMisses => exact whenLive_alike (hR.life h) (hR.counters h).2 h

/-- Related memory systems answer every history alike. -/
theorem KeptByThePort.performAll (hR : KeptByThePort R Q) (ops : List (MemOp aw)) :
    ∀ {m m' : MemorySystem aw}, R m m' →
      OutcomesAlike R (AnswersAlike Q ops) (MemorySystem.performAll ops m) (MemorySystem.performAll ops m') := by
  induction ops with
  | nil => exact fun h => .performed .nil h
  | cons op ops ih =>
    intro m m' h
    have first := hR.perform op h
    simp only [MemorySystem.performAll]
    generalize m.perform op = x at first
    generalize m'.perform op = x' at first
    cases first with
    | refused e => exact .refused e
    | @performed _ _ n n' hanswer hrel =>
      have later := ih hrel
      dsimp only
      generalize MemorySystem.performAll ops n = y at later
      generalize MemorySystem.performAll ops n' = y' at later
      cases later with
      | refused e => exact .refused e
      | performed hanswers hrel' => exact .performed (.cons hanswer hanswers) hrel'

end

/-! ## Only the data are seen -/

/-- The same data in two memory systems that keep the invariant. -/
def SameDataInv (m m' : MemorySystem aw) : Prop := m.Inv ∧ m'.Inv ∧ SameData m m'

theorem sameDataInv_translate {m m' : MemorySystem aw} (h : SameDataInv m m') (v : BitVec aw) (f : Bool) :
    SameDataInv (translate v f m).2 (translate v f m').2 := by
  obtain ⟨hm, hm', hdata⟩ := h
  exact ⟨inv_translate hm v f, inv_translate hm' v f, by simpa [SameData] using hdata⟩

/-- Under the invariant a read returns what RAM holds at the address itself. -/
theorem accessRead_of_inv {m : MemorySystem aw} (h : m.Inv) (n : Nat) (v : BitVec aw) :
    accessRead n v m =
      (if v.toNat + n - 1 ≥ m.ramSize then 0 else memRead m.ram v.toNat n, (translate v false m).2) := by
  rw [accessRead_eq, translate_eq_of_inv h]

/-- Under the invariant a write changes RAM at the address itself. -/
theorem accessWrite_of_inv {m : MemorySystem aw} (h : m.Inv) (n : Nat) (v : BitVec aw) (x : BitVec (8 * n)) :
    accessWrite n v x m =
      { (translate v false m).2 with
        ram := if v.toNat + n - 1 ≥ m.ramSize then m.ram else memWrite m.ram v.toNat n x } := by
  rw [accessWrite_eq, translate_eq_of_inv h]

theorem sameDataInv_kept : KeptByThePort (aw := aw) SameDataInv fun op r r' => readsCounter op = false → r = r' where
  life h := h.2.2.1
  init n := ⟨inv_initInstance n, inv_initInstance n, rfl, rfl, rfl⟩
  initFails := ⟨inv_initAllocationFails, inv_initAllocationFails, rfl, rfl, rfl⟩
  destroy := fun ⟨hm, hm', _, hdata⟩ => ⟨inv_destroyInstance hm, inv_destroyInstance hm', rfl, hdata⟩
  flush := fun ⟨hm, hm', hdata⟩ => ⟨inv_flushTlbs hm, inv_flushTlbs hm', hdata⟩
  translate v f h := by
    refine ⟨?_, sameDataInv_translate h v f⟩
    rw [translate_eq_of_inv h.1, translate_eq_of_inv h.2.1]
  read n v h := by
    have hafter := sameDataInv_translate h v false
    obtain ⟨hm, hm', -, hsize, hram⟩ := h
    rw [accessRead_of_inv hm, accessRead_of_inv hm', hsize, hram]
    exact ⟨rfl, hafter⟩
  write n v x h := by
    obtain ⟨-, -, hlife, hsize', -⟩ := sameDataInv_translate h v false
    obtain ⟨hm, hm', -, hsize, hram⟩ := h
    refine ⟨inv_accessWrite hm n v x, inv_accessWrite hm' n v x, ?_⟩
    rw [accessWrite_of_inv hm, accessWrite_of_inv hm', hsize, hram]
    exact ⟨hlife, hsize', rfl⟩
  sameAnswer _ _ _ := rfl
  counters _ := ⟨nofun, nofun⟩

/-- Settles O55: under the invariant a translation answers its argument, so no result comes from a TLB. -/
theorem tlbContentsNeverReachTheData : Obligations.TlbContentsNeverReachTheData := by
  intro aw ops m m' hm hm' hdata
  have halike := sameDataInv_kept.performAll ops ⟨hm, hm', hdata⟩
  refine ⟨halike.error_iff, fun rs n rs' n' hrs hrs' => ?_⟩
  obtain ⟨hanswers, -, -, hdata'⟩ := halike.of_ok hrs hrs'
  exact ⟨hdata', hanswers.length_eq.1, hanswers.length_eq.2, fun _ _ => hanswers.getElem?_eq⟩

/-! ## The permission flags are not seen -/

theorem map_withoutFlags_tlbInsert (t : Tlb aw) (v p : BitVec aw) (flags : BitVec 3) :
    (tlbInsert t v p flags).map TlbEntry.withoutFlags = tlbInsert (t.map TlbEntry.withoutFlags) v p 0 := by
  rw [tlbInsert, Vector.map_set]
  rfl

theorem tlb_withoutFlags (m : MemorySystem aw) (f : Bool) :
    m.withoutFlags.tlb f = (m.tlb f).map TlbEntry.withoutFlags := by
  cases f <;> rfl

theorem withoutFlags_withTlb (m : MemorySystem aw) (f : Bool) (t : Tlb aw) :
    (m.withTlb f t).withoutFlags = m.withoutFlags.withTlb f (t.map TlbEntry.withoutFlags) := by
  cases f <;> rfl

theorem withoutFlags_flushTlbs (m : MemorySystem aw) : (flushTlbs m).withoutFlags = flushTlbs m.withoutFlags := by
  simp only [MemorySystem.withoutFlags, flushTlbs, Vector.map_map]
  rfl

/-- A translation but for the flags it fills depends on the memory system but for its flags. -/
theorem translate_withoutFlags (v : BitVec aw) (f : Bool) (m : MemorySystem aw) :
    ((translate v f m).1, (translate v f m).2.withoutFlags) =
      if ((m.withoutFlags.tlb f).get (tlbIndex v)).hits v then
        (((m.withoutFlags.tlb f).get (tlbIndex v)).paddrBase ||| pageOffset v, countHit m.withoutFlags)
      else (v, (countMiss m.withoutFlags).withTlb f (tlbInsert (m.withoutFlags.tlb f) v v 0)) := by
  rw [tlb_withoutFlags, get_map]
  rcases translate_cases v f m with ⟨hhit, h⟩ | ⟨hmiss, h⟩
  · rw [h, if_pos (by exact hhit)]
    rfl
  · rw [h, if_neg (by rw [Bool.not_eq_true]; exact hmiss), withoutFlags_withTlb, map_withoutFlags_tlbInsert]
    rfl

/-- Two memory systems that differ in their permission flags only. -/
def DifferInFlags (m m' : MemorySystem aw) : Prop := m.withoutFlags = m'.withoutFlags

theorem DifferInFlags.sameData {m m' : MemorySystem aw} (h : DifferInFlags m m') : SameData m m' :=
  ⟨congrArg (·.life) h, congrArg (·.ramSize) h, congrArg (·.ram) h⟩

theorem DifferInFlags.counters {m m' : MemorySystem aw} (h : DifferInFlags m m') :
    m.tlbHits = m'.tlbHits ∧ m.tlbMisses = m'.tlbMisses :=
  ⟨congrArg (·.tlbHits) h, congrArg (·.tlbMisses) h⟩

theorem DifferInFlags.withRam {m m' : MemorySystem aw} (h : DifferInFlags m m') (ram : Memory) :
    DifferInFlags { m with ram := ram } { m' with ram := ram } := by
  have hram : { m.withoutFlags with ram := ram } = { m'.withoutFlags with ram := ram } := by rw [h]
  exact hram

theorem differInFlags_translate {m m' : MemorySystem aw} (h : DifferInFlags m m') (v : BitVec aw) (f : Bool) :
    (translate v f m).1 = (translate v f m').1 ∧ DifferInFlags (translate v f m).2 (translate v f m').2 := by
  apply Prod.mk.inj
  rw [translate_withoutFlags, translate_withoutFlags, h]

theorem differInFlags_kept : KeptByThePort (aw := aw) DifferInFlags fun _ r r' => r = r' where
  life h := h.sameData.1
  init _ := rfl
  initFails := rfl
  destroy h := congrArg destroyInstance h
  flush h := by
    rw [DifferInFlags, withoutFlags_flushTlbs, withoutFlags_flushTlbs, h]
  translate v f h := differInFlags_translate h v f
  read n v h := by
    obtain ⟨haddr, hafter⟩ := differInFlags_translate h v false
    obtain ⟨-, hsize, hram⟩ := h.sameData
    rw [accessRead_eq, accessRead_eq, haddr, hsize, hram]
    exact ⟨rfl, hafter⟩
  write n v x h := by
    obtain ⟨haddr, hafter⟩ := differInFlags_translate h v false
    obtain ⟨-, hsize, hram⟩ := h.sameData
    rw [accessWrite_eq, accessWrite_eq, haddr, hsize, hram]
    exact hafter.withRam _
  sameAnswer _ _ := rfl
  counters h := ⟨congrArg MemResult.count h.counters.1, congrArg MemResult.count h.counters.2⟩

/-- Settles O56: a translation reads no flag, and fills every entry with the same ones. -/
theorem permissionFlagsNeverMatter : Obligations.PermissionFlagsNeverMatter := by
  intro aw ops m m' h
  have halike := differInFlags_kept.performAll ops h
  refine ⟨halike.error_iff, fun rs n rs' n' hrs hrs' => ?_⟩
  obtain ⟨hanswers, hflags⟩ := halike.of_ok hrs hrs'
  exact ⟨hanswers.eq, hflags⟩

end Sys2Proof.Machine
end

section
/-! The bytes of memory: which byte each operation stores, what a wide read is made of, and what an operation that
translates leaves of the rest. From these rules the statements of 20_memory.md. -/

namespace Sys2Proof.Machine

variable {aw : Nat}

/-! ## What a history stores -/

theorem ram_accessWrite_of_inv {m : MemorySystem aw} (h : m.Inv) (n : Nat) (v : BitVec aw) (x : BitVec (8 * n)) :
    (accessWrite n v x m).ram = if v.toNat + n - 1 ≥ m.ramSize then m.ram else memWrite m.ram v.toNat n x := by
  rw [accessWrite_of_inv h]

/-- A write stores its own bytes within bounds and leaves every other byte as it was (R530 (d), R63). -/
theorem readByte_accessWrite {m : MemorySystem aw} (h : m.Inv) (n : Nat) (v : BitVec aw) (x : BitVec (8 * n))
    (a : Nat) :
    Memory.readByte (accessWrite n v x m).ram a =
      (storedAt n v x m.ramSize a).getD (Memory.readByte m.ram a) := by
  rw [ram_accessWrite_of_inv h, storedAt]
  by_cases hb : v.toNat + n - 1 ≥ m.ramSize
  · rw [if_pos hb, if_neg fun hin => Nat.not_lt.mpr hb hin.1, Option.getD_none]
  · rw [if_neg hb, readByte_memWrite h.ramCanonical]
    by_cases ha : v.toNat ≤ a ∧ a < v.toNat + n
    · rw [if_pos ha, if_pos ⟨Nat.not_le.mp hb, ha⟩, Option.getD_some]
    · rw [if_neg ha, if_neg fun hin => ha hin.2, Option.getD_none]

theorem ram_accessRead (n : Nat) (v : BitVec aw) (m : MemorySystem aw) : (accessRead n v m).2.ram = m.ram := by
  rw [accessRead_eq, translate_ram]

theorem Leaves.ramSize_eq {op : MemOp aw} {m m' : MemorySystem aw} (h : Leaves m op m') : m'.ramSize = m.ramSize := by
  cases h with
  | translation ram ht => exact translate_ramSize _ _ m
  | _ => rfl

theorem Leaves.life_eq {op : MemOp aw} {m m' : MemorySystem aw} (h : Leaves m op m') (hop : changesLife op = false) :
    m'.life = m.life := by
  cases h with
  | translation ram ht => exact translate_life _ _ m
  | destroy => cases hop
  | _ => rfl

/-- What a history within a life leaves: the life, RAM_SIZE, and in every byte what the most recent write that
covered it stored, or what it held before (R72). -/
structure Stored (ops : List (MemOp aw)) (m m' : MemorySystem aw) : Prop where
  inv : m'.Inv
  life : m'.life = m.life
  ramSize : m'.ramSize = m.ramSize
  bytes (a) : Memory.readByte m'.ram a =
    (ops.reverse.findSome? (storedByte m.ramSize a)).getD (Memory.readByte m.ram a)

theorem stored_nil {m : MemorySystem aw} (h : m.Inv) : Stored [] m m := ⟨h, rfl, rfl, fun _ => rfl⟩

/-- Of two histories one after the other, a write in the later one wins. -/
theorem Stored.append {ops later : List (MemOp aw)} {m n m' : MemorySystem aw} (h : Stored ops m n)
    (h' : Stored later n m') : Stored (ops ++ later) m m' where
  inv := h'.inv
  life := h'.life.trans h.life
  ramSize := h'.ramSize.trans h.ramSize
  bytes a := by
    rw [List.reverse_append, List.findSome?_append, Option.getD_or, ← h.bytes a, ← h.ramSize, h'.bytes a]

/-- A byte after one operation is the one that it stored there, or the one before (R535 to R538). -/
theorem readByte_perform {op : MemOp aw} {m m' : MemorySystem aw} {r : MemResult aw} (hinv : m.Inv)
    (hop : changesLife op = false) (h : m.perform op = .ok (r, m')) (a : Nat) :
    Memory.readByte m'.ram a = (storedByte m.ramSize a op).getD (Memory.readByte m.ram a) := by
  have performed {p : MemResult aw × MemorySystem aw} {b : Byte} (hb : Memory.readByte p.2.ram a = b)
      (hp : whenLive m p = .ok (r, m')) : Memory.readByte m'.ram a = b := by
    obtain ⟨-, rfl⟩ := whenLive_eq_ok.mp hp
    exact hb
  have kept {p : MemResult aw × MemorySystem aw} (hram : p.2.ram = m.ram) (hp : whenLive m p = .ok (r, m')) :
      Memory.readByte m'.ram a = Memory.readByte m.ram a := performed (by rw [hram]) hp
  cases op with
  | init n => cases hop
  | initAllocationFailure n => cases hop
  | destroy => cases hop
  | translate v f => exact kept (translate_ram v f m) h
  | flush => exact kept (flushTlbs_ram m) h
  | read8 v => exact kept (ram_accessRead 1 v m) h
  | read16 v => exact kept (ram_accessRead 2 v m) h
  | read32 v => exact kept (ram_accessRead 4 v m) h
  | read64 v => exact kept (ram_accessRead 8 v m) h
  | write8 v x => exact performed (readByte_accessWrite hinv 1 v x a) h
  | write16 v x => exact performed (readByte_accessWrite hinv 2 v x a) h
  | write32 v x => exact performed (readByte_accessWrite hinv 4 v x a) h
  | write64 v x => exact performed (readByte_accessWrite hinv 8 v x a) h
  | readTlbHits => exact kept rfl h
  | readTlbMisses => exact kept rfl h

theorem stored_of_perform {op : MemOp aw} {m m' : MemorySystem aw} {r : MemResult aw} (hinv : m.Inv)
    (hop : changesLife op = false) (h : m.perform op = .ok (r, m')) : Stored [op] m m' := by
  have hleaves := leaves_of_perform (needsLive_of_changesLife hop) h
  refine ⟨inv_perform hinv h, hleaves.life_eq hop, hleaves.ramSize_eq, fun a => ?_⟩
  rw [readByte_perform hinv hop h, List.reverse_singleton, List.findSome?_singleton]

theorem stored_of_performAll {ops : List (MemOp aw)} :
    ∀ {m m' : MemorySystem aw} {rs : List (MemResult aw)}, m.Inv → (∀ op ∈ ops, changesLife op = false) →
      MemorySystem.performAll ops m = .ok (rs, m') → Stored ops m m' := by
  induction ops with
  | nil =>
    intro m m' rs hinv _ h
    cases h
    exact stored_nil hinv
  | cons op ops ih =>
    intro m m' rs hinv hlife h
    obtain ⟨r, n, rs', hp, hps, -⟩ := performAll_cons_eq_ok h
    rw [List.forall_mem_cons] at hlife
    obtain ⟨hop, hops⟩ := hlife
    have first := stored_of_perform hinv hop hp
    exact first.append (ih first.inv hops hps)

theorem memRead_one (m : Memory) (p : Nat) : memRead m p 1 = Memory.readByte m p := by
  apply BitVec.eq_of_toNat_eq
  rw [toNat_memRead_succ, toNat_memRead]
  simp [Memory.readBytes, beNat]

/-- Under the invariant a one-byte read answers the byte at its address, and 0 out of bounds. -/
theorem read8_of_inv {m : MemorySystem aw} (h : m.Inv) (v : BitVec aw) :
    (read8 v m).1 = if v.toNat < m.ramSize then Memory.readByte m.ram v.toNat else 0 := by
  rw [read8, accessRead_of_inv h, memRead_one, Nat.add_sub_cancel]
  simp only [ge_iff_le, ← Nat.not_lt, ite_not]

/-- Settles O57: `init` leaves every byte 0, and after it each byte is what the history stored there last. -/
theorem lastWriteWins : Obligations.LastWriteWins := by
  intro aw size ops m m' rs hlife h
  obtain ⟨r, n, rs', hp, hps, -⟩ := performAll_cons_eq_ok h
  cases hp
  obtain ⟨hinv, hlive, hsize, hbytes⟩ := stored_of_performAll (inv_initInstance size) hlife hps
  refine ⟨hlive, hsize, fun v => ?_⟩
  rw [read8_of_inv hinv, hsize, hbytes]
  rfl

/-! ## Wide reads -/

/-- Two groups of consecutive bytes, the first one more significant (R62). -/
theorem toNat_memRead_add (m : Memory) (p j k : Nat) :
    (memRead m p (j + k)).toNat = (memRead m p j).toNat * 2 ^ (8 * k) + (memRead m (p + j) k).toNat := by
  induction k with
  | zero => simp [toNat_memRead m (p + j), Memory.readBytes, beNat]
  | succ k ih =>
    rw [← Nat.add_assoc j, toNat_memRead_succ, ih, toNat_memRead_succ, Nat.add_assoc p]
    ring

theorem memRead_add (m : Memory) (p j k : Nat) :
    memRead m p (j + k) = (memRead m p j ++ memRead m (p + j) k).cast (Nat.mul_add 8 j k).symm := by
  apply BitVec.eq_of_toNat_eq
  rw [toNat_memRead_add, BitVec.toNat_cast, BitVec.toNat_append, ← Nat.shiftLeft_add_eq_or_of_lt (BitVec.isLt _),
    Nat.shiftLeft_eq]

theorem accessRead_of_inBounds {m : MemorySystem aw} (h : m.Inv) {n : Nat} {v : BitVec aw}
    (hb : v.toNat + n - 1 < m.ramSize) : (accessRead n v m).1 = memRead m.ram v.toNat n := by
  rw [accessRead_of_inv h, if_neg (Nat.not_le.mpr hb)]

theorem ramSize_accessRead (n : Nat) (v : BitVec aw) (m : MemorySystem aw) :
    (accessRead n v m).2.ramSize = m.ramSize := by
  rw [accessRead_eq, translate_ramSize]

/-- Within bounds a read of `j + k` bytes is a read of `j` bytes and then one of the `k` bytes behind them. RAM_SIZE
is below 2^AW, so the address of the second read does not wrap around. -/
theorem accessRead_add {m : MemorySystem aw} (h : m.Inv) {v : BitVec aw} (j k : Nat) (hk : 0 < k)
    (hb : v.toNat + (j + k) - 1 < m.ramSize) :
    (accessRead (j + k) v m).1 =
      ((accessRead j v m).1 ++ (accessRead k (v + BitVec.ofNat aw j) (accessRead j v m).2).1).cast
        (Nat.mul_add 8 j k).symm := by
  have hsize := h.sizeBelow
  have hnext : (v + BitVec.ofNat aw j).toNat = v.toNat + j := by
    rw [BitVec.toNat_add, BitVec.toNat_ofNat, Nat.add_mod_mod, Nat.mod_eq_of_lt (by omega)]
  have hbnext : (v + BitVec.ofNat aw j).toNat + k - 1 < (accessRead j v m).2.ramSize := by
    rw [ramSize_accessRead, hnext]
    omega
  rw [accessRead_of_inBounds h hb, accessRead_of_inBounds h (show v.toNat + j - 1 < m.ramSize by omega),
    accessRead_of_inBounds (inv_accessRead h j v) hbnext, ram_accessRead, hnext, memRead_add]

/-- Settles O50: each width is twice the one below it. -/
theorem wideReadsAreTwoNarrowReads : Obligations.WideReadsAreTwoNarrowReads := fun _ _ _ h =>
  ⟨accessRead_add h 1 1 (by decide), accessRead_add h 2 2 (by decide), accessRead_add h 4 4 (by decide)⟩

/-! ## One translation per access -/

/-- An operation that translates leaves what its translation leaves, but for RAM. -/
theorem exists_ram_of_perform {op : MemOp aw} {v : BitVec aw} {f : Bool} {m m' : MemorySystem aw} {r : MemResult aw}
    (ht : translationOf op = some (v, f)) (h : m.perform op = .ok (r, m')) :
    ∃ ram, m' = { (translate v f m).2 with ram := ram } := by
  have hleaves := leaves_of_perform (needsLive_of_translationOf (ht ▸ Option.some_ne_none _)) h
  cases hleaves with
  | translation ram ht' =>
    cases ht.symm.trans ht'
    exact ⟨ram, rfl⟩
  | _ => cases ht

/-- The page base is the page number times the page size (R500). -/
theorem toNat_pageBase_eq (v : BitVec aw) : (pageBase v).toNat = v.toNat / 4096 * 4096 := by
  rw [pageBase_eq_shift, BitVec.toNat_shiftLeft, BitVec.toNat_ushiftRight, Nat.shiftRight_eq_div_pow,
    Nat.shiftLeft_eq]
  exact Nat.mod_eq_of_lt (Nat.lt_of_le_of_lt (Nat.div_mul_le_self _ _) v.isLt)

/-- Settles O51: the access leaves the counters, the TLBs, RAM_SIZE and the life as its translation does. -/
theorem accessTranslatesOnceAtItsFirstByte : Obligations.AccessTranslatesOnceAtItsFirstByte := by
  intro aw op v f m m' r i ht h hi
  obtain ⟨ram, rfl⟩ := exists_ram_of_perform ht h
  obtain rfl : i = tlbIndex v := Fin.ext (hi.trans (tlbIndex_val v).symm)
  obtain ⟨hvalid, htag⟩ := translate_resident v f m
  exact ⟨translate_counters v f m, translate_other_tlb v f m, fun _ => translate_get_ne v f m, hvalid,
    (congrArg BitVec.toNat htag).trans (toNat_pageBase_eq v), translate_ramSize v f m, translate_life v f m⟩

end Sys2Proof.Machine
end

section
/-! The default tables: no word is selected by two entries of one table, so the entry that selects a word among those
its lookup consults is the one the lookup finds. From this the two directions between words and instructions. -/

namespace Sys2Proof.Laws.OwnRow

/-- The lemmas of the instructions, one per constructor in the order of declaration. -/
theorem statement_of_instr (i : Instr) : Statement i :=
  Instr.casesOn (motive := Statement) i
    tdi twi mulli subfic cmpli cmpi addic addicDot addi addis bc sc b rlwimi rlwinm rlwnm ori oris xori xoris
    andiDot andisDot rldicl rldicr rldic rldimi rldcl rldcr lwz lwzu lbz lbzu stw stwu stb stbu lhz lhzu lha
    lhau sth sthu lmw stmw lfs lfsu lfd lfdu stfs stfsu stfd stfdu ld ldu lwa std stdu mcrf bclr crnor rfi
    crandc isync crxor crnand crand creqv crorc cror bcctr cmp tw subfc addc mulhwu lwarx lwzx slw cntlzw and
    cmpl subf dcbst lwzux andc mulhw mfmsr dcbf lbzx neg lbzux nor subfe adde mtmsr stwcxDot stwx stwux subfze
    addze mtsr stbx subfme addme mullw mtsrin dcbtst stbux add dcbt lhzx eqv tlbie eciwx lhzux xor lhax lhaux
    sthx orc ecowx sthux or divwu dcbi nand divw mcrxr lswx lwbrx lfsx srw tlbsync lfsux mfsr lswi sync lfdx
    lfdux mfsrin stswx stwbrx stfsx stfsux stswi stfdx stfdux lhbrx sraw srawi eieio sthbrx extsh extsb icbi
    stfiwx dcbz mfcr mtcrf mfspr mftb mtspr fdivs fsubs fadds fsqrts fres fmuls fmsubs fmadds fnmsubs fnmadds
    fdiv fsub fadd fsqrt fsel fmul frsqrte fmsub fmadd fnmsub fnmadd

end Sys2Proof.Laws.OwnRow

namespace Sys2Proof.Machine

/-! ## No two entries of one table select the same word (30_encoding.md R128) -/

/-- Rows whose entries pairwise differ in a bit that both of them fix. -/
def PairwiseApart (l : List TableRow) : Prop := l.Pairwise fun a b => a.entry.apart b.entry = true

theorem pairwiseApart_primaryRows : PairwiseApart primaryRows := by unfold PairwiseApart; decide +kernel
theorem pairwiseApart_xlRows : PairwiseApart xlRows := by unfold PairwiseApart; decide +kernel
theorem pairwiseApart_xRows_xfxRows : PairwiseApart (xRows ++ xfxRows) := by unfold PairwiseApart; decide +kernel
theorem pairwiseApart_aRows : PairwiseApart aRows := by unfold PairwiseApart; decide +kernel

theorem pairwiseApart_ownRows (raw : Word) : PairwiseApart (ownRows raw) := by
  unfold ownRows
  split_ifs
  · exact pairwiseApart_xlRows
  · exact pairwiseApart_xRows_xfxRows
  · exact pairwiseApart_aRows
  · exact pairwiseApart_primaryRows

/-- The entries of such rows do not overlap. -/
theorem PairwiseApart.not_both {l : List TableRow} (h : PairwiseApart l) :
    (l.map TableRow.entry).Pairwise fun e e' =>
      ∀ raw : Word, ¬(raw &&& e.mask = e.matchBits ∧ raw &&& e'.mask = e'.matchBits) := by
  rw [List.pairwise_map]
  refine List.Pairwise.imp ?_ h
  intro a b hab raw ⟨ha, hb⟩
  have hoverlap := apart_of_selects (beq_iff_eq.mpr ha) (beq_iff_eq.mpr hb)
  exact Bool.false_ne_true (hoverlap.symm.trans hab)

theorem wf_defaultTables : TablesOf.wf defaultTables = true := by decide +kernel

theorem matchBits_within_mask {T : Tables} (hT : TablesOf.wf T = true) {e : DecodeTableEntry}
    (he : e ∈ T.primary ++ T.xl ++ T.x ++ T.xfx ++ T.a) : e.matchBits &&& ~~~e.mask = 0#32 := by
  have hwf := List.all_eq_true.mp hT e he
  simp only [DecodeTableEntry.wf, Bool.and_eq_true, beq_iff_eq] at hwf
  exact hwf.1.1

/-- Settles O14: the four tables are pairwise apart, and the default tables are well formed. -/
theorem defaultTablesDoNotOverlap : Obligations.DefaultTablesDoNotOverlap := by
  refine ⟨?_, fun e => matchBits_within_mask wf_defaultTables, rfl, rfl, rfl, rfl, rfl⟩
  have hx := pairwiseApart_xRows_xfxRows.not_both
  rw [List.map_append] at hx
  simp only [List.forall_mem_cons, List.not_mem_nil, false_implies, implies_true, and_true]
  exact ⟨pairwiseApart_primaryRows.not_both, pairwiseApart_xlRows.not_both, hx, pairwiseApart_aRows.not_both⟩

/-! ## A lookup is one scan of the word's own rows (40_decoder_ops.md R142 to R146) -/

theorem toNat_fieldPrimaryOpcode (raw : Word) : (fieldPrimaryOpcode raw).toNat = raw.toNat / 2 ^ 26 := by
  rw [fieldPrimaryOpcode, toNat_extract]
  omega

theorem fieldPrimaryOpcode_eq_iff (raw : Word) (op : BitVec 6) :
    fieldPrimaryOpcode raw = op ↔ raw.toNat / 2 ^ 26 = op.toNat := by
  rw [← toNat_fieldPrimaryOpcode, BitVec.toNat_inj]

/-- An entry that fixes the top six bits selects words of its own primary opcode only. -/
theorem fieldPrimaryOpcode_of_selects {e : DecodeTableEntry} {raw : Word}
    (hmask : e.mask.extractLsb' 26 6 = BitVec.allOnes 6) (h : e.selects raw = true) :
    fieldPrimaryOpcode raw = e.matchBits.extractLsb' 26 6 := by
  rw [← beq_iff_eq.mp h, BitVec.extractLsb'_and, hmask, BitVec.and_allOnes, fieldPrimaryOpcode]

/-- The primary opcodes with a secondary family (R144). -/
def secondaryOpcodes : List (BitVec 6) := [19, 31, 59, 63]

theorem primaryRows_opcode : ∀ r ∈ primaryRows, r.entry.mask.extractLsb' 26 6 = BitVec.allOnes 6 ∧
    r.entry.matchBits.extractLsb' 26 6 ∉ secondaryOpcodes := by decide +kernel

theorem aRows_opcode : ∀ r ∈ aRows, r.entry.mask.extractLsb' 26 6 = BitVec.allOnes 6 ∧
    (r.entry.matchBits.extractLsb' 26 6 = 59 ∨ r.entry.matchBits.extractLsb' 26 6 = 63) := by decide +kernel

theorem not_mem_secondaryOpcodes_of_selects {raw : Word} {r : TableRow} (hr : r ∈ primaryRows)
    (hs : r.entry.selects raw = true) : fieldPrimaryOpcode raw ∉ secondaryOpcodes := by
  obtain ⟨hmask, hop⟩ := primaryRows_opcode r hr
  rwa [fieldPrimaryOpcode_of_selects hmask hs]

theorem opcode_of_selects_aRows {raw : Word} {r : TableRow} (hr : r ∈ aRows) (hs : r.entry.selects raw = true) :
    fieldPrimaryOpcode raw = 59 ∨ fieldPrimaryOpcode raw = 63 := by
  obtain ⟨hmask, hop⟩ := aRows_opcode r hr
  rwa [fieldPrimaryOpcode_of_selects hmask hs]

theorem scanRows_primaryRows_of_secondary {raw : Word} (h : fieldPrimaryOpcode raw ∈ secondaryOpcodes) :
    scanRows TableRow.entry primaryRows raw = none :=
  List.find?_eq_none.mpr fun _ hr hs => not_mem_secondaryOpcodes_of_selects hr hs h

theorem scanRows_append {α : Type} (entryOf : α → DecodeTableEntry) (l l' : List α) (raw : Word) :
    scanRows entryOf (l ++ l') raw = (scanRows entryOf l raw).or (scanRows entryOf l' raw) :=
  List.find?_append

theorem lookupRow_eq_or {α : Type} (entryOf : α → DecodeTableEntry) (T : TablesOf α) (raw : Word) :
    lookupRow entryOf T raw = (secondaryRow entryOf T raw).or (scanRows entryOf T.primary raw) := by
  unfold lookupRow
  cases secondaryRow entryOf T raw <;> rfl

/-- Among the words of a secondary family the primary table gives nothing, so the family's scan alone decides. -/
theorem lookupRow_defaultRows (raw : Word) :
    lookupRow TableRow.entry defaultRows raw = scanRows TableRow.entry (ownRows raw) raw := by
  have hprimary := scanRows_primaryRows_of_secondary (raw := raw)
  rw [lookupRow_eq_or]
  unfold secondaryRow ownRows
  simp only [defaultRows]
  split_ifs with h19 h31 ha
  · rw [hprimary (by simp [secondaryOpcodes, h19]), Option.or_none]
  · rw [hprimary (by simp [secondaryOpcodes, h31]), Option.or_none, scanRows_append]
    cases scanRows TableRow.entry xRows raw <;> rfl
  · rw [hprimary (by rcases ha with h | h <;> simp [secondaryOpcodes, h]), Option.or_none]
  · rw [Option.none_or]

theorem lookupRow_of_mem_ownRows {raw : Word} {r : TableRow} (hr : r ∈ ownRows raw)
    (hs : r.entry.selects raw = true) : lookupRow TableRow.entry defaultRows raw = some r :=
  (lookupRow_defaultRows raw).trans (scanRows_eq_of_mem (pairwiseApart_ownRows raw) hr hs)

/-- A consulted row that selects the word stands in the word's own table. -/
theorem mem_ownRows_of_consulted {raw : Word} {r : TableRow} (hr : IsConsulted defaultRows raw r)
    (hs : r.entry.selects raw = true) : r ∈ ownRows raw := by
  rcases hr with hp | ⟨hxl, hop⟩ | ⟨hx, hop⟩ | ha
  · obtain ⟨i, hi⟩ := List.getElem?_of_mem hp
    have hop := not_mem_secondaryOpcodes_of_selects hp hs
    exact Laws.OwnRow.mem_primary rfl hi (by simpa [secondaryOpcodes] using hop)
  · obtain ⟨i, hi⟩ := List.getElem?_of_mem hxl
    exact Laws.OwnRow.mem_xl hop hi
  · obtain ⟨i, hi⟩ := List.getElem?_of_mem (List.mem_append.mpr hx)
    exact Laws.OwnRow.mem_x hop hi
  · obtain ⟨i, hi⟩ := List.getElem?_of_mem ha
    exact Laws.OwnRow.mem_a rfl hi (opcode_of_selects_aRows ha hs)

/-- The entries of the default tables are those of the rows. -/
theorem exists_row_of_consulted {raw : Word} {e : DecodeTableEntry} (he : IsConsulted defaultTables raw e) :
    ∃ r, IsConsulted defaultRows raw r ∧ r.entry = e := by
  simp only [IsConsulted, defaultTables, List.mem_map] at he
  rcases he with ⟨r, hr, rfl⟩ | ⟨⟨r, hr, rfl⟩, hop⟩ | ⟨⟨r, hr, rfl⟩ | ⟨r, hr, rfl⟩, hop⟩ | ⟨r, hr, rfl⟩
  · exact ⟨r, .inl hr, rfl⟩
  · exact ⟨r, .inr (.inl ⟨hr, hop⟩), rfl⟩
  · exact ⟨r, .inr (.inr (.inl ⟨.inl hr, hop⟩)), rfl⟩
  · exact ⟨r, .inr (.inr (.inl ⟨.inr hr, hop⟩)), rfl⟩
  · exact ⟨r, .inr (.inr (.inr hr)), rfl⟩

theorem lookup_of_consulted {raw : Word} {e : DecodeTableEntry} (he : IsConsulted defaultTables raw e)
    (hs : e.selects raw = true) : lookup defaultTables raw = some e := by
  obtain ⟨r, hr, rfl⟩ := exists_row_of_consulted he
  rw [lookup_defaultTables, lookupRow_of_mem_ownRows (mem_ownRows_of_consulted hr hs) hs]
  rfl

/-- Settles O15: the four cases are those of the entries a lookup consults. -/
theorem defaultEntryDecidesEveryWordItSelects : Obligations.DefaultEntryDecidesEveryWordItSelects := by
  intro raw e hs he
  refine lookup_of_consulted ?_ (beq_iff_eq.mpr hs)
  rcases he with hp | ha | ⟨hxl, hop⟩ | ⟨hx, hop⟩
  · exact .inl hp
  · exact .inr (.inr (.inr ha))
  · exact .inr (.inl ⟨hxl, (fieldPrimaryOpcode_eq_iff raw 19).mpr hop⟩)
  · exact .inr (.inr (.inl ⟨List.mem_append.mp hx, (fieldPrimaryOpcode_eq_iff raw 31).mpr hop⟩))

/-! ## Words and instructions -/

theorem decodeWord_encode (i : Instr) : decodeWord (encode i) = some i := by
  obtain ⟨r, hr, -, hs, hbuild⟩ := Laws.OwnRow.statement_of_instr i
  rw [decodeWord, lookupRow_of_mem_ownRows hr hs, Option.map_some, hbuild]

theorem decodeBytes_encodeBytes_append (i : Instr) (rest : List Byte) :
    decodeBytes (encodeBytes i ++ rest) = .ok (i, rest) := by
  simp only [encodeBytes, bytesOfWord, List.cons_append, List.nil_append, decodeBytes, wordOfBytes_bytesOfWord,
    decodeWord_encode]

/-- Settles O17: the lookup of an instruction's word finds the instruction's own row. -/
theorem encodeThenDecode : Obligations.EncodeThenDecode := fun i rest =>
  ⟨decodeWord_encode i, decodeBytes_encodeBytes_append i rest⟩

/-- Settles O18: the row a lookup finds selects the word, and reads from it the instruction that encodes it. -/
theorem decodeThenEncode : Obligations.DecodeThenEncode := by
  intro raw i h
  obtain ⟨r, hr, rfl⟩ := Option.map_eq_some_iff.mp h
  obtain ⟨hconsulted, hs⟩ := lookupRow_eq_some hr
  exact encode_build_of_consulted hconsulted hs

theorem decodeWord_of_encode {i : Instr} {raw : Word} (h : encode i = raw) : decodeWord raw = some i :=
  h ▸ decodeWord_encode i

theorem decodeWord_zero : decodeWord 0#32 = none := by decide +kernel

/-- Settles O16: each word is the encoding of its instruction. -/
theorem writtenOutWordsDecode : Obligations.WrittenOutWordsDecode :=
  ⟨decodeWord_of_encode rfl, decodeWord_of_encode rfl, decodeWord_of_encode rfl, decodeWord_of_encode rfl,
    decodeWord_of_encode rfl, decodeWord_of_encode rfl, decodeWord_of_encode rfl, decodeWord_of_encode rfl,
    decodeWord_of_encode rfl, decodeWord_zero⟩

theorem decodeWord_eq_none_iff (raw : Word) : decodeWord raw = none ↔ lookup defaultTables raw = none := by
  rw [decodeWord, lookup_defaultTables, Option.map_eq_none_iff, Option.map_eq_none_iff]

theorem recordOfFormat_format (format : InstructionFormat) (raw : Word) :
    (recordOfFormat format raw).format = format := by
  cases format <;> rfl

theorem format_decode_eq_unknown_iff {T : Tables} (hT : TablesOf.wf T = true) (raw : Word) :
    (decode T raw).format = .unknown ↔ lookup T raw = none := by
  cases h : lookup T raw with
  | none => simp [decode_of_lookup_none h, recordUnknown]
  | some e => simp [decode_of_lookup_some h, recordOfFormat_format, format_ne_unknown_of_lookup hT h]

/-- Settles O19: on both sides no consulted entry selects the word. -/
theorem wordsWithoutInstructionAreUnknown : Obligations.WordsWithoutInstructionAreUnknown :=
  ⟨fun raw => (decodeWord_eq_none_iff raw).trans (format_decode_eq_unknown_iff wf_defaultTables raw).symm,
    decodeWord_zero, decodeWord_of_encode rfl⟩

end Sys2Proof.Machine
end

section
/-! The signed results of the decoder (30_encoding.md R115): a displacement is four times the signed number its field
stands for. -/

namespace Sys2Proof.Machine

/-- A record of a format that is not UNKNOWN is the extraction of that format, for any tables. -/
theorem decode_eq_of_format {T : Tables} {raw : Word} {format : InstructionFormat}
    (hformat : (decode T raw).format = format) (hknown : format ≠ .unknown) :
    decode T raw = recordOfFormat format raw := by
  cases h : lookup T raw with
  | none =>
    rw [decode_of_lookup_none h] at hformat
    exact absurd hformat.symm hknown
  | some e =>
    rw [decode_of_lookup_some h] at hformat ⊢
    rw [← hformat, recordOfFormat_format]

theorem fieldDsSimm_eq (raw : Word) : fieldDsSimm raw = raw.extractLsb' 2 14 ++ 0b00#2 := by
  apply BitVec.eq_of_toNat_eq
  rw [toNat_fieldDsSimm, ← toNat_extract]
  exact (toNat_append_add (raw.extractLsb' 2 14) 0b00#2).symm

theorem toInt_fieldDsSimm (raw : Word) : (fieldDsSimm raw).toInt = 4 * (raw.extractLsb' 2 14).toInt := by
  rw [fieldDsSimm_eq]
  exact BitVec.toInt_append_zero

theorem toInt_fieldAddrI (raw : Word) : (fieldAddrI raw).toInt = 4 * (raw.extractLsb' 2 24).toInt := by
  rw [fieldAddrI, BitVec.toInt_signExtend_of_le (by decide), BitVec.toInt_append_zero]
  rfl

theorem toInt_fieldAddrB (raw : Word) : (fieldAddrB raw).toInt = 4 * (raw.extractLsb' 2 14).toInt := by
  rw [fieldAddrB, BitVec.toInt_signExtend_of_le (by decide), BitVec.toInt_append_zero]
  rfl

/-- Settles O10: the bounds are those of a signed number of the field's width, times four for a displacement. -/
theorem displacementsStayInTheirRanges : Obligations.DisplacementsStayInTheirRanges := by
  intro T raw
  have hsimm := (decode T raw).simm.le_toInt
  have hsimm' := (decode T raw).simm.toInt_lt
  have h14 := (raw.extractLsb' 2 14).le_toInt
  have h14' := (raw.extractLsb' 2 14).toInt_lt
  have h24 := (raw.extractLsb' 2 24).le_toInt
  have h24' := (raw.extractLsb' 2 24).toInt_lt
  refine ⟨by omega, fun hds => ?_, fun hi => ?_, fun hb => ?_⟩
  · have hfield : (decode T raw).simm = fieldDsSimm raw :=
      congrArg (·.simm) (decode_eq_of_format hds (by decide))
    rw [hfield, toInt_fieldDsSimm]
    omega
  · have hfield : (decode T raw).addr = fieldAddrI raw :=
      congrArg (·.addr) (decode_eq_of_format hi (by decide))
    rw [hfield, toInt_fieldAddrI]
    omega
  · have hfield : (decode T raw).addr = fieldAddrB raw :=
      congrArg (·.addr) (decode_eq_of_format hb (by decide))
    rw [hfield, toInt_fieldAddrB]
    omega

end Sys2Proof.Machine
end

section
/-! What each instruction answers: every instruction of a format delivers the record that is written over the operands
of that format (40_decoder_ops.md R148 to R160), with the opcodes the maps give it (30_encoding.md R123 to R127). -/

namespace Sys2Proof.Machine

/-- Settles O21: each of them delivers the D record of its primary opcode. -/
theorem dFormInstructionsAnswer : Obligations.DFormInstructionsAnswer := by
  intro p hp rt ra imm s
  change exec (p.1 rt ra imm) s = deliver (recordD p.2 rt ra imm) s
  fin_cases hp <;> rfl

/-- Settles O22: the three of them deliver the I, the B and the SC record. -/
theorem branchAndSystemCallInstructionsAnswer : Obligations.BranchAndSystemCallInstructionsAnswer := by
  intro li bt ba bd aa lk low s
  have hb : exec (.b li aa lk) s = deliver (recordI 18 li aa lk) s := rfl
  have hbc : exec (.bc bt ba bd aa lk) s = deliver (recordB 16 bt ba bd aa lk) s := rfl
  have hsc : exec (.sc low) s = deliver (recordSc 17 low) s := rfl
  exact ⟨hb, hbc, hsc⟩

/-- Settles O23: each of them delivers the M, MD or MDS record of its selecting bits. -/
theorem rotateInstructionsAnswer : Obligations.RotateInstructionsAnswer := by
  refine ⟨fun p hp rt ra sh mb me rc s => ?_, fun p hp rt ra rb mid low s => ?_, fun p hp rt ra rb mid rc s => ?_⟩
  · change exec (p.1 rt ra sh mb me rc) s = deliver (recordM p.2 rt ra sh mb me rc) s
    fin_cases hp <;> rfl
  · change exec (p.1 rt ra rb mid low) s = deliver (recordMd 30 p.2 rt ra rb mid low) s
    fin_cases hp <;> rfl
  · change exec (p.1 rt ra rb mid rc) s = deliver (recordMds 30 p.2 rt ra rb mid rc) s
    fin_cases hp <;> rfl

/-- Settles O24: each of them delivers the DS record of its primary opcode and low bits. -/
theorem dsFormInstructionsAnswer : Obligations.DsFormInstructionsAnswer := by
  intro p hp rt ra ds s
  change exec (p.1 rt ra ds) s = deliver (recordDs p.2.1 p.2.2 rt ra ds) s
  fin_cases hp <;> rfl

/-- Settles O25: each of them delivers the XL record of its extended opcode. -/
theorem xlFormInstructionsAnswer : Obligations.XlFormInstructionsAnswer := by
  intro p hp bt ba bb lk s
  change exec (p.1 bt ba bb lk) s = deliver (recordXl 19 p.2 bt ba bb lk) s
  fin_cases hp <;> rfl

/-- Settles O26: each of them delivers the X record of its extended opcode. -/
theorem xFormInstructionsAnswer : Obligations.XFormInstructionsAnswer := by
  intro p hp rt ra rb rc s
  change exec (p.1 rt ra rb rc) s = deliver (recordX 31 p.2 rt ra rb rc) s
  fin_cases hp <;> rfl

/-- Settles O27: each of them delivers the X record with bit 10 as an operand. -/
theorem overflowEnableInstructionsAnswer : Obligations.OverflowEnableInstructionsAnswer := by
  intro p hp rt ra rb oe rc s
  change exec (p.1 rt ra rb oe rc) s = deliver (recordXo 31 p.2 rt ra rb oe rc) s
  fin_cases hp <;> rfl

/-- Settles O28: each of them delivers the XFX record of its extended opcode. -/
theorem xfxFormInstructionsAnswer : Obligations.XfxFormInstructionsAnswer := by
  intro p hp rt spr rc s
  change exec (p.1 rt spr rc) s = deliver (recordXfx 31 p.2 rt spr rc) s
  fin_cases hp <;> rfl

/-- Settles O29: each of them delivers the A record of its primary opcode and sub-opcode. -/
theorem aFormInstructionsAnswer : Obligations.AFormInstructionsAnswer := by
  intro p hp frt fra frb frc rc s
  change exec (p.1 frt fra frb frc rc) s = deliver (recordA p.2.1 p.2.2 frt fra frb frc rc) s
  fin_cases hp <;> rfl

end Sys2Proof.Machine
end

section
/-! The scan, the dispatch and the name: what decides a word (40_decoder_ops.md R142 to R146), and that the name of a
record is the mnemonic of what decides its word (R161, R162). -/

namespace Sys2Proof.Machine

/-! ## One scan (R142) -/

theorem selects_iff {e : DecodeTableEntry} {raw : Word} : e.selects raw = true ↔ raw &&& e.mask = e.matchBits :=
  beq_iff_eq

theorem scan_eq_none_iff (table : List DecodeTableEntry) (raw : Word) :
    scan table raw = none ↔ ∀ e ∈ table, raw &&& e.mask ≠ e.matchBits := by
  simp only [scan, scanRows, id, List.find?_eq_none, selects_iff, ne_eq]

theorem scan_eq_some_iff (table : List DecodeTableEntry) (raw : Word) (e : DecodeTableEntry) :
    scan table raw = some e ↔ ∃ before after, table = before ++ e :: after ∧ raw &&& e.mask = e.matchBits ∧
      ∀ e' ∈ before, raw &&& e'.mask ≠ e'.matchBits := by
  simp only [scan, scanRows, id, List.find?_eq_some_iff_append, selects_iff, Bool.not_eq_true',
    Bool.eq_false_iff, ne_eq]
  constructor
  · rintro ⟨hsel, before, after, htable, hbefore⟩
    exact ⟨before, after, htable, hsel, hbefore⟩
  · rintro ⟨before, after, htable, hsel, hbefore⟩
    exact ⟨hsel, before, after, htable, hbefore⟩

/-- A masked word has no bit outside the mask. -/
theorem not_selected_of_matchBits_outside_mask {e : DecodeTableEntry} (h : e.matchBits &&& ~~~e.mask ≠ 0#32)
    (raw : Word) : raw &&& e.mask ≠ e.matchBits := by
  intro hsel
  rw [← hsel, BitVec.and_assoc, BitVec.and_not_self] at h
  exact h BitVec.and_zero

theorem scan_primary_addi :
    scan defaultTables.primary 0x38600005#32 = some ⟨0xFC000000#32, 0x38000000#32, .d, "addi"⟩ :=
  rfl

/-- Settles O1: a scan is a search for the first entry that selects the word. -/
theorem scanTakesTheFirstMatchingEntry : Obligations.ScanTakesTheFirstMatchingEntry := fun table raw =>
  ⟨scan_eq_none_iff table raw, scan_eq_some_iff table raw,
    fun _ h => not_selected_of_matchBits_outside_mask h raw, scan_primary_addi⟩

/-! ## The dispatch (R143 to R146) -/

theorem lookup_eq_or (T : Tables) (raw : Word) :
    lookup T raw = (secondaryRow id T raw).or (scan T.primary raw) :=
  lookupRow_eq_or id T raw

/-- The secondary family of a word, by the number its top six bits stand for (R144). -/
theorem secondaryRow_eq (T : Tables) (raw : Word) :
    secondaryRow id T raw =
      if raw.toNat / 2 ^ 26 = 19 then scan T.xl raw
      else if raw.toNat / 2 ^ 26 = 31 then (scan T.x raw).or (scan T.xfx raw)
      else if raw.toNat / 2 ^ 26 = 59 ∨ raw.toNat / 2 ^ 26 = 63 then scan T.a raw
      else none := by
  unfold secondaryRow scan
  simp only [fieldPrimaryOpcode_eq_iff]
  cases scanRows id T.x raw <;> rfl

/-- Settles O2: the family of the word's primary opcode is asked first. -/
theorem secondaryMatchStandsElsePrimaryResult : Obligations.SecondaryMatchStandsElsePrimaryResult := by
  intro T raw
  rw [lookup_eq_or, secondaryRow_eq]
  refine ⟨fun h19 => ?_, fun h31 => ?_, fun ha => ?_, fun hother => ?_⟩
  · rw [if_pos h19]
  · rw [if_neg (by omega), if_pos h31]
  · rw [if_neg (by omega), if_neg (by omega), if_pos ha]
  · simp only [List.mem_cons, List.not_mem_nil, or_false, not_or] at hother
    obtain ⟨h19, h31, h59, h63⟩ := hother
    rw [if_neg h19, if_neg h31, if_neg (not_or.mpr ⟨h59, h63⟩), Option.none_or]

/-! ## The name (R161, R162) -/

theorem instructionName_of_lookup_some {T : Tables} {d : DecodedInstruction} {e : DecodeTableEntry}
    (h : lookup T d.raw = some e) : instructionName T d = e.mnemonic := by
  rw [instructionName, h]

theorem instructionName_of_lookup_none {T : Tables} {d : DecodedInstruction} (h : lookup T d.raw = none) :
    instructionName T d = "unknown" := by
  rw [instructionName, h, Config.unknownName]

/-- Settles O12: the lookup reads the word of a record only. -/
theorem nameReadsOnlyTheWord : Obligations.NameReadsOnlyTheWord := fun T d d' =>
  ⟨fun _ => instructionName_of_lookup_some, instructionName_of_lookup_none, fun hraw => by
    rw [instructionName, hraw, instructionName]⟩

theorem mem_of_lookup {T : Tables} {raw : Word} {e : DecodeTableEntry} (h : lookup T raw = some e) :
    e ∈ T.primary ++ T.xl ++ T.x ++ T.xfx ++ T.a := by
  rcases (lookupRow_eq_some h).1 with hp | ⟨hxl, -⟩ | ⟨hx | hxfx, -⟩ | ha <;> simp [*]

/-- No entry of well-formed tables has the name of an unmatched word. -/
theorem mnemonic_ne_unknown_of_lookup {T : Tables} (hT : TablesOf.wf T = true) {raw : Word} {e : DecodeTableEntry}
    (h : lookup T raw = some e) : e.mnemonic ≠ "unknown" := by
  have hwf := List.all_eq_true.mp hT e (mem_of_lookup h)
  rw [Bool.and_eq_true, bne_iff_ne] at hwf
  exact hwf.2

theorem instructionName_eq_unknown_iff {T : Tables} (hT : TablesOf.wf T = true) (d : DecodedInstruction) :
    instructionName T d = "unknown" ↔ lookup T d.raw = none := by
  cases h : lookup T d.raw with
  | none => simp [instructionName_of_lookup_none h]
  | some e => simp [instructionName_of_lookup_some h, mnemonic_ne_unknown_of_lookup hT h]

theorem format_decode_of_lookup_some {T : Tables} {raw : Word} {e : DecodeTableEntry} (h : lookup T raw = some e) :
    (decode T raw).format = e.format := by
  rw [decode_of_lookup_some h, recordOfFormat_format]

/-- Settles O13: the format and the name are both those of the entry that decides the word. -/
theorem nameAndFormatAgree : Obligations.NameAndFormatAgree := by
  intro T raw hT
  rw [format_decode_eq_unknown_iff hT, instructionName_eq_unknown_iff hT, decode_raw]
  refine ⟨Iff.rfl, fun hformat => ?_⟩
  obtain ⟨e, he⟩ := Option.ne_none_iff_exists'.mp (mt (format_decode_eq_unknown_iff hT raw).mpr hformat)
  refine ⟨e, mem_of_lookup he, he, format_decode_of_lookup_some he, instructionName_of_lookup_some ?_⟩
  rwa [decode_raw]

theorem exists_lookup_encode (i : Instr) :
    ∃ e, lookup defaultTables (encode i) = some e ∧ e.mnemonic = i.mnemonic := by
  obtain ⟨r, hr, hname, hs, -⟩ := Laws.OwnRow.statement_of_instr i
  refine ⟨r.entry, ?_, hname⟩
  rw [lookup_defaultTables, lookupRow_of_mem_ownRows hr hs, Option.map_some]

/-- Settles O20: the instruction's own row decides its word. -/
theorem nameOfAnInstructionIsItsMnemonic : Obligations.NameOfAnInstructionIsItsMnemonic := by
  intro i d hraw
  obtain ⟨e, he, hname⟩ := exists_lookup_encode i
  rw [← hname]
  exact ⟨instructionName_of_lookup_some (hraw ▸ he), mnemonic_ne_unknown_of_lookup wf_defaultTables he⟩

end Sys2Proof.Machine
end

section
/-! The bit-field extractor: the number each field of a word stands for, the fields of the record of a format, and
from these what `decode` fills in, arm by arm (40_decoder_ops.md R141, R147 to R160). -/

namespace Sys2Proof.Machine

/-! ## The numbers of the fields (30_encoding.md R101) -/

@[simp] theorem toNat_field25to21 (raw : Word) : (field25to21 raw).toNat = raw.toNat / 2 ^ 21 % 32 :=
  toNat_extract raw 21 5
@[simp] theorem toNat_field20to16 (raw : Word) : (field20to16 raw).toNat = raw.toNat / 2 ^ 16 % 32 :=
  toNat_extract raw 16 5
@[simp] theorem toNat_field15to11 (raw : Word) : (field15to11 raw).toNat = raw.toNat / 2 ^ 11 % 32 :=
  toNat_extract raw 11 5
@[simp] theorem toNat_field10to6 (raw : Word) : (field10to6 raw).toNat = raw.toNat / 2 ^ 6 % 32 :=
  toNat_extract raw 6 5
@[simp] theorem toNat_field5to1 (raw : Word) : (field5to1 raw).toNat = raw.toNat / 2 % 32 :=
  toNat_extract raw 1 5
@[simp] theorem toNat_fieldExtendedOpcode (raw : Word) : (fieldExtendedOpcode raw).toNat = raw.toNat / 2 % 2 ^ 10 :=
  toNat_extract raw 1 10
@[simp] theorem toNat_fieldImm (raw : Word) : (fieldImm raw).toNat = raw.toNat % 2 ^ 16 := by
  rw [fieldImm, toNat_extract, pow_zero, Nat.div_one]

theorem getLsbD_eq_true_iff (raw : Word) (i : Nat) : raw.getLsbD i = true ↔ raw.toNat / 2 ^ i % 2 = 1 := by
  rw [BitVec.getLsbD, Nat.testBit_eq_decide_div_mod_eq, decide_eq_true_iff]

theorem fieldBit0_eq_true_iff (raw : Word) : fieldBit0 raw = true ↔ raw.toNat % 2 = 1 := by
  rw [fieldBit0, getLsbD_eq_true_iff, pow_zero, Nat.div_one]
theorem fieldBit1_eq_true_iff (raw : Word) : fieldBit1 raw = true ↔ raw.toNat / 2 % 2 = 1 :=
  getLsbD_eq_true_iff raw 1
theorem fieldBit10_eq_true_iff (raw : Word) : fieldBit10 raw = true ↔ raw.toNat / 2 ^ 10 % 2 = 1 :=
  getLsbD_eq_true_iff raw 10

theorem fieldBit10_eq (raw : Word) : fieldBit10 raw = (fieldExtendedOpcode raw).getLsbD 9 := by
  simp [fieldBit10, fieldExtendedOpcode]

/-- A field of `n + 1` bits read as two's complement (R115). -/
theorem toInt_extract (raw : Word) (start n : Nat) :
    (raw.extractLsb' start (n + 1)).toInt =
      if raw.toNat / 2 ^ start % 2 ^ (n + 1) < 2 ^ n then (raw.toNat / 2 ^ start % 2 ^ (n + 1) : Int)
      else (raw.toNat / 2 ^ start % 2 ^ (n + 1) : Int) - 2 ^ (n + 1) := by
  have hsign : 2 * (raw.toNat / 2 ^ start % 2 ^ (n + 1)) < 2 ^ (n + 1) ↔
      raw.toNat / 2 ^ start % 2 ^ (n + 1) < 2 ^ n := by omega
  simp only [BitVec.toInt_eq_toNat_cond, toNat_extract, hsign]
  push_cast
  rfl

theorem toInt_fieldImm (raw : Word) : (fieldImm raw).toInt =
    if raw.toNat % 2 ^ 16 < 2 ^ 15 then (raw.toNat % 2 ^ 16 : Int) else (raw.toNat % 2 ^ 16 : Int) - 2 ^ 16 := by
  rw [fieldImm, toInt_extract raw 0 15, pow_zero, Nat.div_one, pow_zero, Int.ediv_one]

/-- The signed field from bit 2 on, as the displacements of I, B and DS have it (R150, R151, R154). -/
theorem four_mul_toInt_extract (raw : Word) (n : Nat) :
    4 * (raw.extractLsb' 2 (n + 1)).toInt =
      if raw.toNat / 4 % 2 ^ (n + 1) < 2 ^ n then 4 * (raw.toNat / 4 % 2 ^ (n + 1) : Int)
      else 4 * ((raw.toNat / 4 % 2 ^ (n + 1) : Int) - 2 ^ (n + 1)) := by
  rw [toInt_extract, mul_ite]
  rfl

theorem toNat_mod_four_of_toInt {x : BitVec 32} {k : Int} (h : x.toInt = 4 * k) : x.toNat % 4 = 0 := by
  rw [BitVec.toInt_eq_toNat_cond] at h
  split at h <;> omega

/-! ## The fields of a record -/

@[simp] theorem recordOfFormat_primaryOpcode (format : InstructionFormat) (raw : Word) :
    (recordOfFormat format raw).primaryOpcode = fieldPrimaryOpcode raw := by
  cases format <;> rfl

@[simp] theorem recordOfFormat_rt (format : InstructionFormat) (raw : Word) :
    (recordOfFormat format raw).rt = field25to21 raw := by
  cases format <;> rfl

@[simp] theorem recordOfFormat_ra (format : InstructionFormat) (raw : Word) :
    (recordOfFormat format raw).ra = field20to16 raw := by
  cases format <;> rfl

@[simp] theorem recordOfFormat_rb (format : InstructionFormat) (raw : Word) :
    (recordOfFormat format raw).rb = field15to11 raw := by
  cases format <;> rfl

@[simp] theorem recordOfFormat_rc (format : InstructionFormat) (raw : Word) :
    (recordOfFormat format raw).rc = fieldBit0 raw := by
  cases format <;> rfl

@[simp] theorem recordOfFormat_imm (format : InstructionFormat) (raw : Word) :
    (recordOfFormat format raw).imm = fieldImm raw := by
  cases format <;> rfl

/-- Only the DS arm replaces the common field `simm` (R154). -/
theorem recordOfFormat_simm {format : InstructionFormat} (h : format ≠ .ds) (raw : Word) :
    (recordOfFormat format raw).simm = fieldImm raw := by
  cases format with
  | ds => exact absurd rfl h
  | _ => rfl

/-- Four formats fill the extended opcode (R149). -/
theorem recordOfFormat_extendedOpcode (format : InstructionFormat) (raw : Word) :
    (recordOfFormat format raw).extendedOpcode =
      if format ∈ [.x, .xl, .xfx, .a] then fieldExtendedOpcode raw else 0 := by
  cases format <;> rfl

/-- The formats with no field of their own (R152, R153, R160). -/
theorem recordOfFormat_of_no_arm {format : InstructionFormat} (h : format ∈ [.sc, .d, .md, .mds, .xfl]) (raw : Word) :
    recordOfFormat format raw = withCommonFields raw { recordUnknown raw with format := format } := by
  fin_cases h <;> rfl

/-- The record of a word, once the format of its deciding entry is known. -/
theorem decode_of_lookup {T : Tables} {raw : Word} {e : DecodeTableEntry} {format : InstructionFormat}
    (h : lookup T raw = some e) (hformat : e.format = format) : decode T raw = recordOfFormat format raw := by
  rw [decode_of_lookup_some h, hformat]

theorem decode_primaryOpcode (T : Tables) (raw : Word) : (decode T raw).primaryOpcode = fieldPrimaryOpcode raw := by
  cases h : lookup T raw with
  | none => rw [decode_of_lookup_none h, recordUnknown]
  | some e => rw [decode_of_lookup_some h, recordOfFormat_primaryOpcode]

/-! ## What `decode` fills in -/

/-- Settles O3: `raw` and the primary opcode are filled before the lookup, the format by what it finds. -/
theorem formatIsTheDecidingEntrys : Obligations.FormatIsTheDecidingEntrys := fun T raw =>
  ⟨decode_raw T raw, decode_primaryOpcode T raw ▸ toNat_fieldPrimaryOpcode raw,
    fun _ => format_decode_of_lookup_some, decode_of_lookup_none, fun hT => format_decode_eq_unknown_iff hT raw⟩

/-- Settles O4: the six fields are those of the record of any format, but for the `simm` of DS. -/
theorem matchedWordFillsTheCommonFields : Obligations.MatchedWordFillsTheCommonFields := by
  intro T raw
  refine ⟨fun e he _ => ?_, fun hnone => ?_⟩
  · rw [decode_of_lookup_some he]
    rw [recordOfFormat_rt, recordOfFormat_ra, recordOfFormat_rb, recordOfFormat_rc, recordOfFormat_imm]
    refine ⟨toNat_field25to21 raw, toNat_field20to16 raw, toNat_field15to11 raw, fieldBit0_eq_true_iff raw,
      toNat_fieldImm raw, fun hds => ?_⟩
    rw [recordOfFormat_simm hds, toInt_fieldImm]
  · rw [decode_of_lookup_none hnone]
    exact ⟨rfl, rfl, rfl, rfl, rfl, rfl⟩

/-- Settles O5: the four formats are those that fill the field, and an unmatched word has none of them. -/
theorem extendedOpcodeOnlyForFourFormats : Obligations.ExtendedOpcodeOnlyForFourFormats := by
  intro T raw
  cases h : lookup T raw with
  | none =>
    rw [decode_of_lookup_none h]
    rfl
  | some e =>
    rw [decode_of_lookup_some h, recordOfFormat_extendedOpcode, recordOfFormat_format, apply_ite BitVec.toNat,
      toNat_fieldExtendedOpcode]
    rfl

/-- Settles O6: the displacement is the signed field with two zero bits below it. -/
theorem branchArmsExtractTheDisplacement : Obligations.BranchArmsExtractTheDisplacement := by
  intro T raw e he
  refine ⟨fun hi => ?_, fun hb => ?_⟩
  · rw [decode_of_lookup he hi]
    exact ⟨(toInt_fieldAddrI raw).trans (four_mul_toInt_extract raw 23), fieldBit0_eq_true_iff raw,
      fieldBit1_eq_true_iff raw, toNat_mod_four_of_toInt (toInt_fieldAddrI raw), rfl⟩
  · rw [decode_of_lookup he hb]
    exact ⟨(toInt_fieldAddrB raw).trans (four_mul_toInt_extract raw 13), fieldBit0_eq_true_iff raw,
      fieldBit1_eq_true_iff raw, toNat_field25to21 raw, toNat_field20to16 raw, toNat_field15to11 raw, rfl, rfl, rfl,
      toNat_mod_four_of_toInt (toInt_fieldAddrB raw)⟩

/-- Settles O7: the masked displacement goes to `simm`; `imm` stays the common field. -/
theorem dsArmMasksTheDisplacement : Obligations.DsArmMasksTheDisplacement := by
  intro T raw e he hds
  rw [decode_of_lookup he hds]
  exact ⟨(toInt_fieldDsSimm raw).trans (four_mul_toInt_extract raw 13), toNat_fieldImm raw⟩

/-- In a word an entry selects, a bit the mask covers is the entry's match bit. -/
theorem getLsbD_of_selects {e : DecodeTableEntry} {raw : Word} (h : e.selects raw = true) {i : Nat}
    (hmask : e.mask.getLsbD i = true) : raw.getLsbD i = e.matchBits.getLsbD i := by
  rw [← selects_iff.mp h, BitVec.getLsbD_and, hmask, Bool.and_true]

/-- Settles O8: each arm copies fields of the word, whose numbers are known; bit 10 of an X word is the match bit
where the mask covers it because the deciding entry selects the word. -/
theorem registerArmsExtractTheirFields : Obligations.RegisterArmsExtractTheirFields := by
  intro T raw e he
  have hrt := toNat_field25to21 raw
  have hra := toNat_field20to16 raw
  have hrb := toNat_field15to11 raw
  have hrc := fieldBit0_eq_true_iff raw
  refine ⟨fun hx => ?_, fun hxl => ?_, fun hxfx => ?_, fun ha => ?_, fun hm => ?_⟩
  · rw [decode_of_lookup he hx]
    exact ⟨fieldBit10_eq_true_iff raw, hrc, fieldBit10_eq raw, getLsbD_of_selects (lookupRow_eq_some he).2⟩
  · rw [decode_of_lookup he hxl]
    exact ⟨hrt, hra, hrb, hrc, rfl, rfl, rfl, rfl, rfl⟩
  · have hspr : (fieldSpr raw).toNat = (field15to11 raw).toNat * 32 + (field20to16 raw).toNat :=
      hrb ▸ hra ▸ toNat_fieldSpr raw
    rw [decode_of_lookup he hxfx]
    exact ⟨toNat_fieldSpr raw, hspr⟩
  · rw [decode_of_lookup he ha]
    exact ⟨hrt, hra, hrb, toNat_field10to6 raw, hrc, rfl, rfl, rfl⟩
  · rw [decode_of_lookup he hm]
    exact ⟨hrb, toNat_field10to6 raw, toNat_field5to1 raw, rfl, hrc⟩

/-- Settles O9: the record of such a format is the common fields over the defaults, and that of an unmatched word the
defaults alone. -/
theorem armsThatWriteNothing : Obligations.ArmsThatWriteNothing := fun _ raw =>
  ⟨fun _ he hformat => (decode_of_lookup_some he).trans (recordOfFormat_of_no_arm hformat raw),
    decode_of_lookup_none⟩

end Sys2Proof.Machine
end

section
/-! The operations of the TLBs: what a translation answers and leaves, in the numbers of the spec, what it shares with
the other TLB, and what a flush leaves (46_tlb_ops.md R500 to R508). -/

namespace Sys2Proof.Machine

variable {aw : Nat}

/-! ## The two halves of an address as numbers (R500) -/

/-- At a width below twelve the mask is cut to the address width, as the address is. -/
theorem toNat_pageOffset (v : BitVec aw) : (pageOffset v).toNat = v.toNat % 4096 := by
  have hlt : v.toNat % 4096 < 2 ^ aw := Nat.lt_of_le_of_lt (Nat.mod_le _ _) v.isLt
  calc (pageOffset v).toNat
      = v.toNat % 2 ^ aw &&& 4095 % 2 ^ aw := by
        rw [pageOffset, BitVec.toNat_and, BitVec.toNat_ofNat, Nat.mod_eq_of_lt v.isLt]; rfl
    _ = (v.toNat &&& 4095) % 2 ^ aw := Nat.and_mod_two_pow.symm
    _ = v.toNat % 4096 % 2 ^ aw := congrArg (· % 2 ^ aw) (Nat.and_two_pow_sub_one_eq_mod v.toNat 12)
    _ = v.toNat % 4096 := Nat.mod_eq_of_lt hlt

/-- Below a page-aligned base the offset fills bits that are zero, so nothing carries (R503). -/
theorem toNat_or_pageOffset {base : BitVec aw} (h : base.toNat % 4096 = 0) (v : BitVec aw) :
    (base ||| pageOffset v).toNat = base.toNat + v.toNat % 4096 := by
  obtain ⟨page, hpage⟩ := Nat.dvd_of_mod_eq_zero h
  rw [BitVec.toNat_or, toNat_pageOffset, hpage]
  exact (Nat.two_pow_add_eq_or_of_lt (i := 12) (Nat.mod_lt _ (by decide)) page).symm

theorem pageBase_eq_ofNat (v : BitVec aw) : pageBase v = BitVec.ofNat aw (v.toNat / 4096 * 4096) := by
  rw [← toNat_pageBase_eq, BitVec.ofNat_toNat, BitVec.setWidth_eq]

theorem hits_iff_toNat {e : TlbEntry aw} {v : BitVec aw} :
    e.hits v = true ↔ e.valid = true ∧ e.vaddrTag.toNat = v.toNat / 4096 * 4096 := by
  rw [hits_iff, ← toNat_pageBase_eq, BitVec.toNat_inj]

/-! ## One translation (R503, R504) -/

theorem perform_translate_of_live {m m' : MemorySystem aw} {v p : BitVec aw} {f : Bool} (hlive : m.life = .live)
    (h : translate v f m = (p, m')) : m.perform (.translate v f) = .ok (.paddr p, m') := by
  rw [MemorySystem.perform, h, whenLive_of_live hlive]

theorem withTlb_countMiss (m : MemorySystem aw) (f : Bool) (t : Tlb aw) :
    (countMiss m).withTlb f t =
      { m with
        tlbMisses := m.tlbMisses + 1
        itlb := if f then t else m.itlb
        dtlb := if f then m.dtlb else t } := by
  cases f <;> rfl

/-- Settles O41: the hit condition in numbers is the model's, and the base and the offset share no bit. -/
theorem translateHit : Obligations.TranslateHit := by
  intro aw v f m i e hlive hi he hvalid htag
  obtain rfl : i = tlbIndex v := Fin.ext (hi.trans (tlbIndex_val v).symm)
  subst he
  exact ⟨perform_translate_of_live hlive (translate_of_hit (hits_iff_toNat.mpr ⟨hvalid, htag⟩)),
    fun hbase => toNat_or_pageOffset hbase v⟩

/-- Settles O42: the entry does not hit, and what replaces it is `Insert` of the address at itself. -/
theorem translateMiss : Obligations.TranslateMiss := by
  intro aw v f m i e new hlive hi he hmiss hnew
  obtain rfl : i = tlbIndex v := Fin.ext (hi.trans (tlbIndex_val v).symm)
  subst he
  have hhits : ((m.tlb f).get (tlbIndex v)).hits v = false :=
    Bool.eq_false_iff.mpr fun h => hmiss (hits_iff_toNat.mp h)
  have hinsert (t : Tlb aw) : tlbInsert t v v missFlags = t.set (tlbIndex v).val new (tlbIndex v).isLt := by
    rw [hnew, ← pageBase_eq_ofNat]
    rfl
  rw [perform_translate_of_live hlive (translate_of_miss hhits), withTlb_countMiss, hinsert]
  cases f <;> rfl

/-! ## The other TLB (R508) -/

theorem tlb_withTlb_other (m : MemorySystem aw) (f : Bool) (t : Tlb aw) : (m.withTlb (!f) t).tlb f = m.tlb f := by
  cases f <;> rfl

theorem withTlb_withTlb_other (m : MemorySystem aw) (f : Bool) (t u : Tlb aw) :
    (m.withTlb (!f) t).withTlb f u = (m.withTlb f u).withTlb (!f) t := by
  cases f <;> rfl

theorem countHit_withTlb (m : MemorySystem aw) (f : Bool) (t : Tlb aw) :
    countHit (m.withTlb f t) = (countHit m).withTlb f t := by
  cases f <;> rfl

theorem countMiss_withTlb (m : MemorySystem aw) (f : Bool) (t : Tlb aw) :
    countMiss (m.withTlb f t) = (countMiss m).withTlb f t := by
  cases f <;> rfl

/-- A translation does not read the other TLB: with another one there it hits or misses alike, and leaves that one. -/
theorem translate_withTlb_other (v : BitVec aw) (f : Bool) (m : MemorySystem aw) (t : Tlb aw) :
    translate v f (m.withTlb (!f) t) = ((translate v f m).1, (translate v f m).2.withTlb (!f) t) := by
  have htlb := tlb_withTlb_other m f t
  rcases translate_cases v f m with ⟨hhit, h⟩ | ⟨hmiss, h⟩
  · rw [h, translate_of_hit (htlb ▸ hhit), htlb, countHit_withTlb]
  · rw [h, translate_of_miss (htlb ▸ hmiss), htlb, countMiss_withTlb, withTlb_withTlb_other]

/-- Either counter may take it, but a translation adds one to their sum (R510 (a)). -/
theorem translate_counters_sum (v : BitVec aw) (f : Bool) (m : MemorySystem aw) :
    (translate v f m).2.tlbHits + (translate v f m).2.tlbMisses = m.tlbHits + m.tlbMisses + 1 := by
  have hcount := translate_counters v f m
  omega

/-- Settles O45: the two kinds of translation are one operation on the TLB that `isInstructionFetch` selects. -/
theorem tlbsAreIndependent : Obligations.TlbsAreIndependent := fun _ v m t =>
  ⟨translate_other_tlb v true m, translate_other_tlb v false m, translate_withTlb_other v true m t,
    translate_withTlb_other v false m t, fun f => translate_counters_sum v f m⟩

/-! ## Flush (R506) -/

theorem invalidate_comp_invalidate : TlbEntry.invalidate (aw := aw) ∘ TlbEntry.invalidate = TlbEntry.invalidate := rfl

theorem flushTlbs_flushTlbs (m : MemorySystem aw) : flushTlbs (flushTlbs m) = flushTlbs m := by
  simp only [flushTlbs, Vector.map_map, invalidate_comp_invalidate]

theorem perform_flush_of_live {m : MemorySystem aw} (hlive : m.life = .live) :
    m.perform .flush = .ok (.done, flushTlbs m) :=
  whenLive_of_live hlive _

/-- Settles O46: a flush maps every entry to the one without its valid bit, and an entry without it to itself. -/
theorem flushClearsTheValidBitsOnly : Obligations.FlushClearsTheValidBitsOnly := by
  intro aw m hlive
  have again : (flushTlbs m).perform .flush = .ok (.done, flushTlbs m) := by
    rw [perform_flush_of_live ((flushTlbs_life m).trans hlive), flushTlbs_flushTlbs]
  exact ⟨flushTlbs m, perform_flush_of_live hlive, again, get_map m.itlb, get_map m.dtlb, rfl⟩

end Sys2Proof.Machine
end

section
/-! The sized accessors: the bytes that each width reads and stores, written out, what an access answers and leaves
in a live state, and that a read returns what the write before it stored (47_mem_access_ops.md R530 to R539). -/

namespace Sys2Proof.Machine

variable {aw : Nat}

/-! ## Reads (R531 to R534) -/

/-- A value one byte wider has the next byte at its low end (R62). -/
theorem memRead_snoc {m : Memory} {p n : Nat} {x : BitVec (8 * n)} (h : memRead m p n = x) :
    memRead m p (n + 1) = x ++ Memory.readByte m (p + n) := by
  rw [memRead_add, h, memRead_one]
  rfl

/-- What a read answers and leaves in a live state, given the value that RAM holds at the translated address. -/
theorem whenLive_accessRead {m : MemorySystem aw} (hlive : m.life = .live) (n : Nat) {v : BitVec aw}
    (answer : BitVec (8 * n) → MemResult aw) {x : BitVec (8 * n)}
    (hx : memRead m.ram (translate v false m).1.toNat n = x) :
    whenLive m (answer (accessRead n v m).1, (accessRead n v m).2) =
      .ok (answer (if (translate v false m).1.toNat + n - 1 ≥ m.ramSize then 0 else x), (translate v false m).2) := by
  rw [whenLive_of_live hlive, accessRead_eq, hx]

/-- Settles O47: each width reads one byte more than the one below it, down to the single byte. -/
theorem readsReturnBigEndianBytesOrZero : Obligations.ReadsReturnBigEndianBytesOrZero := by
  intro aw v m hlive p m' b hp hm' hb
  subst hp hm'
  obtain rfl := funext hb
  have h1 := memRead_one m.ram (translate v false m).1.toNat
  have h2 := memRead_snoc h1
  have h4 := memRead_snoc (memRead_snoc h2)
  have h8 := memRead_snoc (memRead_snoc (memRead_snoc (memRead_snoc h4)))
  exact ⟨whenLive_accessRead hlive 1 .value8 h1, whenLive_accessRead hlive 2 .value16 h2,
    whenLive_accessRead hlive 4 .value32 h4, whenLive_accessRead hlive 8 .value64 h8⟩

/-! ## Writes (R535 to R538) -/

/-- Of consecutive bytes the first is stored at the first offset, the rest behind it. -/
theorem readByte_writeBytes_cons {m : Memory} (h : Memory.wf m = true) (p a : Nat) (b : Byte) (rest : List Byte) :
    Memory.readByte (Memory.writeBytes m p (b :: rest)) a =
      if a = p then b else Memory.readByte (Memory.writeBytes m (p + 1) rest) a := by
  rw [Memory.writeBytes, readByte_writeBytes rest (p + 1) a (wf_writeByte h p b), readByte_writeByte h,
    readByte_writeBytes rest (p + 1) a h]
  by_cases ha : a = p
  · rw [if_neg (by omega), if_pos ha, if_pos ha]
  · rw [if_neg ha, if_neg ha]

theorem readByte_memWrite_one {m : Memory} (h : Memory.wf m = true) (p a : Nat) (x : BitVec 8) :
    Memory.readByte (memWrite m p 1 x) a = if a = p then x else Memory.readByte m a := by
  have hx : beBytes 1 x = [x] := congrArg (fun b => [b]) BitVec.extractLsb'_eq_self
  rw [memWrite, hx, readByte_writeBytes_cons h, Memory.writeBytes]

theorem readByte_memWrite_two {m : Memory} (h : Memory.wf m = true) (p a : Nat) (x : BitVec 16) :
    Memory.readByte (memWrite m p 2 x) a =
      if a = p then x.extractLsb' 8 8 else if a = p + 1 then x.extractLsb' 0 8 else Memory.readByte m a := by
  have hx : beBytes 2 x = [x.extractLsb' 8 8, x.extractLsb' 0 8] := rfl
  rw [memWrite, hx, readByte_writeBytes_cons h, readByte_writeBytes_cons h, Memory.writeBytes]

theorem readByte_memWrite_four {m : Memory} (h : Memory.wf m = true) (p a : Nat) (x : BitVec 32) :
    Memory.readByte (memWrite m p 4 x) a =
      if a = p then x.extractLsb' 24 8 else if a = p + 1 then x.extractLsb' 16 8
      else if a = p + 2 then x.extractLsb' 8 8 else if a = p + 3 then x.extractLsb' 0 8
      else Memory.readByte m a := by
  have hx : beBytes 4 x = [x.extractLsb' 24 8, x.extractLsb' 16 8, x.extractLsb' 8 8, x.extractLsb' 0 8] := rfl
  rw [memWrite, hx, readByte_writeBytes_cons h, readByte_writeBytes_cons h, readByte_writeBytes_cons h,
    readByte_writeBytes_cons h, Memory.writeBytes]

theorem readByte_memWrite_eight {m : Memory} (h : Memory.wf m = true) (p a : Nat) (x : BitVec 64) :
    Memory.readByte (memWrite m p 8 x) a =
      if p ≤ a ∧ a ≤ p + 7 then x.extractLsb' (56 - 8 * (a - p)) 8 else Memory.readByte m a := by
  have hpos : 8 * (8 - 1 - (a - p)) = 56 - 8 * (a - p) := by omega
  have hlast : a < p + 8 ↔ a ≤ p + 7 := Nat.lt_succ_iff
  rw [readByte_memWrite h, hpos]
  simp only [hlast]

/-- What a write leaves in a live state, given the bytes that `MemWrite` leaves at the translated address. -/
theorem exists_ram_whenLive_accessWrite {m : MemorySystem aw} (hlive : m.life = .live) {n : Nat} {v : BitVec aw}
    {x : BitVec (8 * n)} {bytes : Nat → Byte}
    (hbytes : ∀ a, Memory.readByte (memWrite m.ram (translate v false m).1.toNat n x) a = bytes a) :
    ∃ ram', whenLive m (MemResult.done (aw := aw), accessWrite n v x m) =
        .ok (MemResult.done, { (translate v false m).2 with ram := ram' }) ∧
      ((translate v false m).1.toNat + n - 1 ≥ m.ramSize → ram' = m.ram) ∧
      ((translate v false m).1.toNat + n - 1 < m.ramSize → ∀ a, Memory.readByte ram' a = bytes a) := by
  refine ⟨_, by rw [whenLive_of_live hlive, accessWrite_eq], fun hout => if_pos hout, fun hin a => ?_⟩
  rw [if_neg (Nat.not_le.mpr hin), hbytes]

/-- Settles O48: RAM after an access is RAM before it or what `MemWrite` leaves, whose bytes each width names. -/
theorem writesStoreBigEndianBytesOrNothing : Obligations.WritesStoreBigEndianBytesOrNothing := by
  intro aw v m hlive hwf p m' hp hm'
  subst hp hm'
  exact ⟨fun x => exists_ram_whenLive_accessWrite hlive fun a => readByte_memWrite_one hwf _ a x,
    fun x => exists_ram_whenLive_accessWrite hlive fun a => readByte_memWrite_two hwf _ a x,
    fun x => exists_ram_whenLive_accessWrite hlive fun a => readByte_memWrite_four hwf _ a x,
    fun x => exists_ram_whenLive_accessWrite hlive fun a => readByte_memWrite_eight hwf _ a x⟩

/-! ## A read after a write (R539) -/

theorem ramSize_accessWrite (n : Nat) (v : BitVec aw) (x : BitVec (8 * n)) (m : MemorySystem aw) :
    (accessWrite n v x m).ramSize = m.ramSize := by
  rw [accessWrite_eq, translate_ramSize]

/-- R539 (a): the write keeps the invariant, so the read goes to the bytes that the write stored. -/
theorem accessRead_accessWrite {m : MemorySystem aw} (h : m.Inv) {n : Nat} {v : BitVec aw} (x : BitVec (8 * n))
    (hb : v.toNat + n - 1 < m.ramSize) : (accessRead n v (accessWrite n v x m)).1 = x := by
  have hb' : v.toNat + n - 1 < (accessWrite n v x m).ramSize := by rwa [ramSize_accessWrite]
  rw [accessRead_of_inBounds (inv_accessWrite h n v x) hb', ram_accessWrite_of_inv h, if_neg (Nat.not_le.mpr hb),
    memRead_memWrite h.ramCanonical]

/-- R539 (c). -/
theorem accessRead_of_outOfBounds {m : MemorySystem aw} (h : m.Inv) {n : Nat} {v : BitVec aw}
    (hb : v.toNat + n - 1 ≥ m.ramSize) : (accessRead n v m).1 = 0 := by
  rw [accessRead_of_inv h, if_pos hb]

theorem memRead_nil (p n : Nat) : memRead [] p n = 0 := by
  apply BitVec.eq_of_toNat_eq
  induction n with
  | zero => rfl
  | succ n ih =>
    rw [toNat_memRead_succ, ih]
    simp [Memory.readByte, Config.unlistedByte]

/-- R539 (d): RAM is empty after `init`, and an unlisted byte reads as 0. -/
theorem accessRead_initInstance (n : Nat) (v size : BitVec aw) : (accessRead n v (initInstance size)).1 = 0 := by
  rw [accessRead_of_inv (inv_initInstance size), show (initInstance size).ram = [] from rfl, memRead_nil, ite_self]

/-- Settles O49: the three rules of a read, at each width. -/
theorem readAfterWriteReturnsTheValue : Obligations.ReadAfterWriteReturnsTheValue := by
  intro aw v m h _
  refine ⟨accessRead_accessWrite (n := 1) h, accessRead_accessWrite (n := 2) h, accessRead_accessWrite (n := 4) h,
    accessRead_accessWrite (n := 8) h, accessRead_of_outOfBounds (n := 1) h, accessRead_of_outOfBounds (n := 2) h,
    accessRead_of_outOfBounds (n := 4) h, accessRead_of_outOfBounds (n := 8) h, fun size => ?_⟩
  exact ⟨accessRead_initInstance 1 v size, accessRead_initInstance 2 v size, accessRead_initInstance 4 v size,
    accessRead_initInstance 8 v size⟩

end Sys2Proof.Machine
end

section
/-! The end of a life (60_exceptions.md R607, 70_reset_and_hazards.md R701): the refusal that names the life, and from it
the statement about `destroy` and about the `init` that fails. -/

namespace Sys2Proof.Machine

variable {aw : Nat} {op : MemOp aw} {m : MemorySystem aw}

/-- R607: with no memory system yet, what needs one is refused as before `init`. -/
theorem perform_of_uninit (hop : NeedsLive op) (hl : m.life = .uninit) : m.perform op = .error .beforeInit := by
  rw [perform_of_not_live hop (by simp [hl]), if_pos hl]

/-- R701: once the memory system is destroyed, what needs one is refused as after `destroy`. -/
theorem perform_of_destroyed (hop : NeedsLive op) (hl : m.life = .destroyed) :
    m.perform op = .error .afterDestroy := by
  rw [perform_of_not_live hop (by simp [hl]), if_neg (by simp [hl])]

/-- Settles O39: a live memory system passes the test of the life, a destroyed one fails it, and a failed `init`
leaves the memory system from before any `init`. -/
theorem destroyAndFailedInitEndTheLife : Obligations.DestroyAndFailedInitEndTheLife := by
  intro aw m
  refine ⟨fun hlive => ⟨?_, ?_⟩, fun n => ?_⟩
  · exact whenLive_of_live hlive _
  · exact perform_of_destroyed ⟨nofun, nofun⟩ rfl
  · exact ⟨initAllocationFails, rfl, rfl, rfl, rfl, fun _ hinit hfail => perform_of_uninit ⟨hinit, hfail⟩ rfl⟩

end Sys2Proof.Machine
end
